-- ==== Sys2Proof/Word.lean ====
section
/-! DEFINITION. The word types of the links and the time base, and the names of the numbered parts.
A field of a frame is a bit vector of the width R163 gives it; a quantity held in a record is a Nat. -/

namespace Sys2Proof

/-- One byte of a frame (R158: 8 data bits). -/
abbrev Byte := BitVec 8

/-- A two-byte field of a frame (R163). -/
abbrev U16 := BitVec 16

/-- A value of the time base, in ms, modulo 2^32 (R155). -/
abbrev Time := BitVec 32

/-- A truck table slot: `k` stands for slot number `k + 1`, 1 to 12 (R58). -/
abbrev Slot := Fin 12

/-- A phantom number: `k` stands for phantom number `k + 1`, 1 to 4 (R80). -/
abbrev PhantomNo := Fin 4

/-- A joint, 0 to 16 (R85). -/
abbrev Joint := Fin 17

end Sys2Proof
end

