-- ==== Sys2Proof/Syntax.lean ====
section
/-! DEFINITION. The commands: one constructor of `Instr` for each row of spec/opcode_table.json, with the row's
operands. The operands of a request are the fields of its frame, at the widths of R163. -/

namespace Sys2Proof

/-- The four link ports (R158). -/
inductive Port where
  | truck | feedA | feedB | dispatch
  deriving DecidableEq, Repr

/-- The two feeds (R38). -/
inductive Feed where
  | a | b
  deriving DecidableEq, Repr

/-- A line-order entry, named by its truck's slot or by its phantom number (R80). -/
inductive EntryRef where
  | truck (slot : Slot)
  | phantom (number : PhantomNo)
  deriving DecidableEq, Repr

/-- A byte as a receiver sees it: its value, and whether its stop bit was there (R159). -/
structure RxByte where
  value : Byte
  stopBit : Bool
  deriving DecidableEq, Repr

/-- What a discarded frame was (R159, R160): a complete frame, or one broken off at its length byte or at a byte
with no stop bit. -/
inductive Discard where
  | complete (kind : Byte) (payload : List Byte) (check : U16)
  | lengthByte (value : Byte)
  | missingStop
  deriving DecidableEq, Repr

/-- The commands of the block, in the order of spec/opcode_table.json. -/
inductive Instr where
  -- truck port
  | join (fleet : U16)
  | status (slot : Byte) (fleet : U16) (panto : Byte) (inForce measured wanted : U16)
  | raise (slot : Byte) (fleet : U16) (span : Byte) (request iMin : U16)
  | cancel (slot : Byte) (fleet : U16)
  | leave (slot : Byte) (fleet : U16)
  -- feed ports: the feed is the port the frame arrives on
  | feedReport (port : Feed) (ident : Byte) (volts capacity : U16) (breaker : Byte) (output : U16)
  | shed (port : Feed) (capacity : U16)
  | shedRelease (port : Feed)
  -- dispatch port
  | setSpan (index : Byte) (length : U16) (resistance : Byte)
  | setSpanCount (count : Byte)
  | setParam (number : Byte) (value : U16)
  | store
  | run
  | stop
  | isoFrom (a : Byte)
  | isoTo (b : Byte)
  | isoApply
  | restore (a b : Byte)
  | clearFaults
  | clearPhantom (number : Byte)
  | evict (slot : Byte)
  | clearCounters
  | warmReset
  | querySection (part : Byte)
  | queryTrucks (part : Byte)
  | queryLine (part : Byte)
  | queryFeeds (part : Byte)
  | querySpans (part : Byte)
  | queryGrants (part : Byte)
  -- links
  | frameDiscarded (port : Port) (what : Discard)
  | frameTimeout (port : Port)
  -- resets and the store
  | coldReset
  | coldResetEnd
  | warmRstNAssert
  | warmResetEnd
  | warmResetAfterAck
  | storeWriteEnd (agrees : Bool)
  -- detectors
  | detectorRise (joint : Joint)
  | detectorFall (joint : Joint)
  | blankingDeadline (joint : Joint)
  | overlongDeadline (joint : Joint)
  -- feeds
  | feedLateDeadline (feed : Feed)
  | feedOutDeadline (feed : Feed)
  | shedDeadline (feed : Feed)
  -- trucks
  | idleDeadline (slot : Slot)
  | holdoffExpiry (slot : Slot)
  | raiseConfirmDeadline (slot : Slot)
  | lowerConfirmDeadline (slot : Slot)
  | cutAcknowledgeDeadline (slot : Slot)
  | silenceDeadline (slot : Slot)
  | silentHoldDeadline (slot : Slot)
  | queueWaitDeadline (slot : Slot)
  | spacingDeadline
  -- line order
  | nextJointDeadline (entry : EntryRef)
  | lostDeadline (entry : EntryRef)
  | phantomExpiry (number : PhantomNo)
  -- allocation
  | cycleDeadline
  | commit
  -- links
  | frameStart (port : Port) (byte : RxByte)
  | answerSent (port : Port)
  deriving DecidableEq, Repr

end Sys2Proof
end

