-- ==== Sys2Proof/Config.lean ====
section
/-! DEFINITION. What the spec leaves open, as constants with no body (nothing in Lean can evaluate one), and the fixed
quantities of the part. Each free value is applied to `State.choice`, a counter the tick advances. -/

namespace Sys2Proof.Config

/-- Where the next of several events due in one millisecond is put among the others (00_scope.md 3.4: no order
between events is given). DESIGN CHOICE, log 3. -/
opaque pick : Nat → Nat → Nat

/-- Whether a computation in flight ends at this tick, before its 40 ms have run out (R123). DESIGN CHOICE, log 4. -/
opaque commitEnds : Nat → Bool

/-- Whether a store write ends at this tick, before its 400 ms have run out (R13). DESIGN CHOICE, log 4. -/
opaque storeEnds : Nat → Bool

/-- Whether the read-back of a store write that the tick ends agrees (R13). DESIGN CHOICE, log 13. -/
opaque storeAgrees : Nat → Bool

/-- Whether the last stop bit of an answer falls in the earlier of the two milliseconds it may fall in (R158).
DESIGN CHOICE, log 4. -/
opaque answerEnds : Nat → Port → Bool

/-- The longest time from a snapshot to its commit, in ms (R123). -/
abbrev commitLimit : Nat := 40

/-- The longest store write, in ms (R13). -/
abbrev storeLimit : Nat := 400

/-- A frame not complete this long after its start byte is discarded, in ms (R159). -/
abbrev frameLimit : Nat := 50

/-- The grant quantum, in A (R33). -/
abbrev quantum : Nat := 50

/-- The largest truck current, in A (R58). -/
abbrev maxTruck : Nat := 3000

/-- The largest feed current, in A (R38). -/
abbrev maxFeed : Nat := 6000

end Sys2Proof.Config
end

