-- ==== Sys2Proof/Machine/State.lean ====
section
/-! DEFINITION. The state of the EF-216 as plain data, block by block (00_scope.md 2.1), and its value after reset. -/

namespace Sys2Proof.Machine

/-- No command of this block stops the machine: a refused request is answered REFUSED (R162), a found fault sets a
fault hold flag (R151). So no fault exists, and none is raised. -/
inductive Fault where
  deriving DecidableEq, Repr

/-- Why a command has no meaning. -/
inductive Refusal where
  /-- Raised by exec's arm of a command that is not modelled. Safe: the model stops. No arm raises it now. -/
  | notModelled (mnemonic : String)
  deriving DecidableEq, Repr

/-- Truck states (R59). -/
inductive TruckState where
  | free | standby | queued | raisePending | drawing | lowering | silent
  deriving DecidableEq, Repr

/-- Pantograph positions (R58). -/
inductive Panto where
  | up | down
  deriving DecidableEq, Repr

/-- Refusal reasons (R163, codes 1 to 13). -/
inductive Reason where
  | notEnrolled | notRunning | wrongState | spanInvalid | spanBarred | holdoff | spanOccupied | tableFull
  | storeBusy | lineOccupied | sequence | noSuchEntry | wrongPort
  deriving DecidableEq, Repr

/-- Directives of the LIMIT answer (R78). -/
inductive Directive where
  | stayDown | wait | raise | draw | lower
  deriving DecidableEq, Repr

/-- Feed states (R38). -/
inductive FeedState where
  | noReport | inService | late | out
  deriving DecidableEq, Repr

/-- Breaker states (R38). -/
inductive Breaker where
  | closed | opened
  deriving DecidableEq, Repr

/-- Shed states (R51). -/
inductive ShedState where
  | none | pending | done | failed
  deriving DecidableEq, Repr

/-- Feed modes (R43). -/
inductive FeedMode where
  | none | aOnly | bOnly | both
  deriving DecidableEq, Repr

/-- Section states (R148). -/
inductive SectionState where
  | unconfigured | stopped | running
  deriving DecidableEq, Repr

/-- Span states (R138). -/
inductive SpanState where
  | opened | pendingBar | barred
  deriving DecidableEq, Repr

/-- The isolation sequence (R139). -/
inductive IsoSeq where
  | none
  | fromSet (a : Nat)
  | toSet (a b : Nat)
  deriving DecidableEq, Repr

/-- Position confidence of an entry (R80). -/
inductive Confidence where
  | known | stale
  deriving DecidableEq, Repr

/-- States of a detector channel (R85). -/
inductive ChannelState where
  | idle | present | trailing
  deriving DecidableEq, Repr

/-- Outcomes of a computation (R126). -/
inductive GrantOutcome where
  | met | breached | overflow
  deriving DecidableEq, Repr

/-- The request kinds of R163. -/
inductive ReqKind where
  | join | status | raise | cancel | leave
  | feedReport | shed | shedRelease
  | setSpan | setSpanCount | setParam | store | run | stop | isoFrom | isoTo | isoApply | restore
  | clearFaults | clearPhantom | evict | clearCounters | warmReset
  | querySection | queryTrucks | queryLine | queryFeeds | querySpans | queryGrants
  deriving DecidableEq, Repr

/-- The five fault hold flags (R151). -/
structure FaultFlags where
  unauthorisedContact : Bool := false
  barredEntry : Bool := false
  overdrawA : Bool := false
  overdrawB : Bool := false
  phantomOverflow : Bool := false
  deriving DecidableEq, Repr

/-- The thirteen event flags (R153). -/
structure EventFlags where
  truckSilent : Bool := false
  truckLost : Bool := false
  raiseTimeout : Bool := false
  limitNoncompliant : Bool := false
  feedLateA : Bool := false
  feedLateB : Bool := false
  feedOutA : Bool := false
  feedOutB : Bool := false
  shedFailedA : Bool := false
  shedFailedB : Bool := false
  positionLost : Bool := false
  storeDone : Bool := false
  storeFailed : Bool := false
  deriving DecidableEq, Repr

/-- A span record (R1); its span state is isolation control's. -/
structure SpanRec where
  length : Nat := 0
  resistance : Nat := 0
  written : Bool := false
  deriving DecidableEq, Repr

/-- The 23 operating parameters, in the order and the units of R7, at their defaults. -/
structure Params where
  vMin : Nat := 2000
  fallbackCapacity : Nat := 1000
  cyclePeriod : Nat := 100
  raiseSpacing : Nat := 500
  raiseConfirm : Nat := 3000
  lowerConfirm : Nat := 3000
  cutAcknowledge : Nat := 1000
  silence : Nat := 1000
  silentHold : Nat := 4000
  standbyIdle : Nat := 120
  queueWait : Nat := 60
  holdoff : Nat := 10
  feedLate : Nat := 500
  feedOut : Nat := 2000
  overdrawMargin : Nat := 300
  shedTimeout : Nat := 5000
  phantomCurrent : Nat := 1500
  phantomHold : Nat := 300
  blanking : Nat := 40
  minPass : Nat := 20
  overlong : Nat := 30
  shoeLength : Nat := 1200
  staleMargin : Nat := 3000
  deriving DecidableEq, Repr

/-- The derived resistances of a valid configuration (R6): N, T, and P(s), Q(s) listed from span 0, in hm. -/
structure Net where
  n : Nat
  t : Nat
  p : List Nat
  q : List Nat
  deriving DecidableEq, Repr

/-- The stored copy (R11) with its check value. -/
structure StoredCopy where
  spanCount : Option Nat
  spans : Vector SpanRec 16
  params : Params
  check : U16
  deriving DecidableEq, Repr

/-- The configuration store (R11); a write carries the time at which its STORE was taken (R13). -/
inductive StoreState where
  | idle
  | writing (since : Time)
  deriving DecidableEq, Repr

/-- A feed record (R38). -/
structure FeedRec where
  state : FeedState := .noReport
  volts : Nat := 0
  capacity : Nat := 0
  breaker : Breaker := .opened
  output : Nat := 0
  lastReport : Option Time := none
  lateDeadline : Option Time := none
  outDeadline : Option Time := none
  overdraw : Nat := 0
  deriving DecidableEq, Repr

/-- A shed record (R51). -/
structure ShedRec where
  state : ShedState := .none
  capacity : Nat := 0
  deadline : Option Time := none
  deriving DecidableEq, Repr

/-- What the feed monitor holds for one feed: feed record, shed record, committed share (R38, R51, R47). -/
structure FeedSide where
  feed : FeedRec := {}
  shed : ShedRec := {}
  share : Nat := 0
  deriving DecidableEq, Repr

/-- A truck record (R58), at the values of a FREE record. `throughout` is the model's own mark: the truck has been
DRAWING throughout since the last snapshot (R132; log 19). -/
structure Truck where
  fleet : Option U16 := none
  state : TruckState := .free
  request : Nat := 0
  iMin : Nat := 200
  issued : Nat := 0
  inForce : Nat := 0
  panto : Panto := .down
  measured : Nat := 0
  lastFrame : Option Time := none
  idle : Option Time := none
  holdoff : Option Time := none
  raiseConfirm : Option Time := none
  lowerConfirm : Option Time := none
  cutAck : Option Time := none
  silence : Option Time := none
  silentHold : Option Time := none
  queueWait : Option Time := none
  refusal : Option Reason := none
  throughout : Bool := false
  deriving DecidableEq, Repr

/-- The fields of an entry that belong to its kind (R80). -/
inductive EntryKind where
  | truck (slot : Slot)
  | phantom (number : PhantomNo) (current : Nat) (expiry : Time) (origin : Option (Slot × U16))
  deriving DecidableEq, Repr

/-- An entry of the line order (R80). -/
structure Entry where
  kind : EntryKind
  span : Nat
  conf : Confidence := .known
  speed : Option Nat := none
  stale : Option Nat := none
  nextJoint : Option Time := none
  lost : Option Time := none
  deriving DecidableEq, Repr

/-- A detector channel (R85). -/
structure Channel where
  state : ChannelState := .idle
  spent : Bool := false
  rise : Option Time := none
  lastFall : Option Time := none
  blanking : Option Time := none
  overlong : Option Time := none
  deriving DecidableEq, Repr

/-- An entry of the raise queue (R102). `altered` is the model's own mark: since the last snapshot the entry was written,
or its requested span gained an entry (R111, R135; log 19). -/
structure QueueEntry where
  slot : Slot
  span : Nat
  altered : Bool
  deriving DecidableEq, Repr

/-- What a snapshot holds of an entry beyond its place (R124). -/
inductive SnapKind where
  | truck (slot : Slot) (fleet : Option U16) (state : TruckState) (request iMin exposure : Nat)
  | phantom (number : PhantomNo) (current : Nat)
  deriving DecidableEq, Repr

/-- An entry record of a snapshot (R124). -/
structure SnapEntry where
  kind : SnapKind
  span : Nat
  conf : Confidence
  modelSpan : Nat
  deriving DecidableEq, Repr

/-- The queue head record of a snapshot (R124). -/
structure SnapHead where
  slot : Slot
  fleet : Option U16
  span : Nat
  request : Nat
  iMin : Nat
  spanOpen : Bool
  spanOccupied : Bool
  deriving DecidableEq, Repr

/-- A snapshot (R124), held while its computation is in flight (R123). -/
structure Snapshot where
  time : Time
  net : Option Net
  vMin : Nat
  mode : FeedMode
  vFeed : Nat
  capA : Nat
  capB : Nat
  overflow : Bool
  entries : List SnapEntry
  gate : Bool
  head : Option SnapHead
  deriving DecidableEq, Repr

/-- An entry of the committed grant table (R131). `heldOrTarget` is the target of a truck that was DRAWING at the
snapshot and the held charge of any other entry; `estimate` is 0 for a phantom. -/
structure GrantEntry where
  who : EntryRef
  span : Nat
  modelSpan : Nat
  heldOrTarget : Nat
  charge : Nat
  estimate : Nat
  deriving DecidableEq, Repr

/-- The raise grant of the committed grant table (R131). -/
structure GrantRec where
  slot : Slot
  span : Nat
  amount : Nat
  applied : Bool
  deriving DecidableEq, Repr

/-- The committed grant table (R131), empty as after a reset (R137; V_min and the capacities: log 15). -/
structure GrantTable where
  snapTime : Option Time := none
  commitTime : Option Time := none
  outcome : Option GrantOutcome := none
  breachA : Bool := false
  breachB : Bool := false
  breachSlots : List Slot := []
  mode : FeedMode := .none
  vFeed : Nat := 0
  vMin : Nat := 0
  capA : Nat := 0
  capB : Nat := 0
  entries : List GrantEntry := []
  grant : Option GrantRec := none
  shareA : Nat := 0
  shareB : Nat := 0
  deriving DecidableEq, Repr

/-- An answer, by its kind (R162), with the fields of R163. -/
inductive Answer where
  | ack (kind : ReqKind) (isoReset : Bool) (echo : List Byte)
  | refused (kind : ReqKind) (reason : Reason) (isoReset : Bool)
  | slot (number : Nat) (reason : Option Reason)
  | limit (slot : Nat) (directive : Directive) (issued : Nat) (lowerBy : Option Nat) (position : Nat)
      (refusal : Option Reason)
  | demand (share : Nat) (mode : FeedMode) (sect : SectionState) (shed : ShedState) (capacity : Option Nat)
      (faults : FaultFlags) (drawing : Nat)
  | report (kind : ReqKind) (part : Nat) (contents : List Byte)
  deriving DecidableEq, Repr

/-- An answer being sent, and the time at which its sending began (R158). -/
structure Sending where
  answer : Answer
  since : Time
  deriving DecidableEq, Repr

/-- A frame receiver (R159): its state, the frame start time, and the bytes held. -/
inductive Rx where
  | hunt
  | kind (start : Time)
  | length (start : Time) (kind : Byte)
  | body (start : Time) (kind : Byte) (len : Nat) (held : List Byte)
  deriving DecidableEq, Repr

/-- A link port (R158, R159, R161). The driver-enable line is asserted while `tx` holds an answer. `lost` holds the
frame start times of the requests whose bytes were lost while it was, oldest first, each until it has run out of its time
(R158); `lostRx` is the model's own: how far the lost bytes have come in a frame (log 31). -/
structure PortState where
  rx : Rx := .hunt
  checkErrors : Nat := 0
  unknownKinds : Nat := 0
  tx : Option Sending := none
  lost : List Time := []
  lostRx : Rx := .hunt
  deriving DecidableEq, Repr

/-- The state of the part. `pending` and `choice` are the model's own fields (logs 1, 29). -/
structure State where
  pending : List Instr
  choice : Nat
  now : Time
  sect : SectionState
  faults : FaultFlags
  events : EventFlags
  phantomCount : Nat
  coldReset : Bool
  warmHold : Bool
  warmPin : Bool
  warmAsked : Bool
  det : Vector Bool 17
  spanCount : Option Nat
  spans : Vector SpanRec 16
  params : Params
  derived : Option Net
  stored : StoredCopy
  store : StoreState
  feedA : FeedSide
  feedB : FeedSide
  shareTime : Option Time
  trucks : Vector Truck 12
  line : List Entry
  channels : Vector Channel 17
  queue : List QueueEntry
  spacing : Option Time
  cycle : Option Time
  inFlight : Option Snapshot
  grants : GrantTable
  spanStates : Vector SpanState 16
  isoSeq : IsoSeq
  truckPort : PortState
  feedPortA : PortState
  feedPortB : PortState
  dispatchPort : PortState
  deriving DecidableEq, Repr

/-- The contents of a store that has never been written; its check value is not the value computed over the rest
(R11; log 12), which test_never_written_copy_fails shows. -/
def StoredCopy.neverWritten : StoredCopy where
  spanCount := none
  spans := Vector.replicate 16 {}
  params := {}
  check := 0xFFFF

/-- The machine right after a cold reset that found no valid stored copy (R15, R148, R156, R157's table; log 11). -/
def State.reset : State where
  pending := []
  choice := 0
  now := 0
  sect := .unconfigured
  faults := {}
  events := {}
  phantomCount := 0
  coldReset := false
  warmHold := false
  warmPin := false
  warmAsked := false
  det := Vector.replicate 17 false
  spanCount := none
  spans := Vector.replicate 16 {}
  params := {}
  derived := none
  stored := StoredCopy.neverWritten
  store := .idle
  feedA := {}
  feedB := {}
  shareTime := none
  trucks := Vector.replicate 12 {}
  line := []
  channels := Vector.replicate 17 {}
  queue := []
  spacing := none
  cycle := none
  inFlight := none
  grants := {}
  spanStates := Vector.replicate 16 .opened
  isoSeq := .none
  truckPort := {}
  feedPortA := {}
  feedPortB := {}
  dispatchPort := {}

end Sys2Proof.Machine
end

