-- ==== Sys2Proof/Machine/Operands.lean ====
section
/-! DEFINITION. Operand forms: how the fields of a frame are read (clamps and codes, R163), how values are laid out as
bytes (R163, R166), and the frame check (R160). -/

namespace Sys2Proof.Machine

/-! ### Reading fields -/

/-- `v` clamped to `lo` to `hi`. -/
def clamp (lo hi v : Nat) : Nat := max lo (min hi v)

/-- `a / b`, rounded up (00_scope.md 3.1). -/
def ceilDiv (a b : Nat) : Nat := (a + b - 1) / b

/-- Pantograph codes; a value that is neither is taken as UP (R66, R163). -/
def pantoOf (b : Byte) : Panto := if b = 0 then .down else .up

/-- Breaker codes; a value that is neither is taken as OPEN (R39, R163). -/
def breakerOf (b : Byte) : Breaker := if b = 1 then .closed else .opened

/-- Feed identifier codes; any other value names no feed (R163). -/
def feedOf (b : Byte) : Option Feed := if b = 1 then some .a else if b = 2 then some .b else none

/-- A slot field: 1 to 12 names a slot (R60, R64). -/
def slotOf (b : Byte) : Option Slot :=
  if h : 1 ≤ b.toNat ∧ b.toNat ≤ 12 then some ⟨b.toNat - 1, by omega⟩ else none

/-- A phantom number field: 1 to 4 names a phantom number (R99). -/
def phantomNoOf (b : Byte) : Option PhantomNo :=
  if h : 1 ≤ b.toNat ∧ b.toNat ≤ 4 then some ⟨b.toNat - 1, by omega⟩ else none

/-! ### Codes of R163 -/

def Panto.code : Panto → Nat
  | .down => 0 | .up => 1

def Breaker.code : Breaker → Nat
  | .opened => 0 | .closed => 1

def Reason.code : Reason → Nat
  | .notEnrolled => 1 | .notRunning => 2 | .wrongState => 3 | .spanInvalid => 4 | .spanBarred => 5 | .holdoff => 6
  | .spanOccupied => 7 | .tableFull => 8 | .storeBusy => 9 | .lineOccupied => 10 | .sequence => 11
  | .noSuchEntry => 12 | .wrongPort => 13

/-- Code 0 means no reason (R162). -/
def reasonCode : Option Reason → Nat
  | none => 0
  | some r => r.code

def Directive.code : Directive → Nat
  | .stayDown => 0 | .wait => 1 | .raise => 2 | .draw => 3 | .lower => 4

def SectionState.code : SectionState → Nat
  | .unconfigured => 0 | .stopped => 1 | .running => 2

def FeedMode.code : FeedMode → Nat
  | .none => 0 | .aOnly => 1 | .bOnly => 2 | .both => 3

def ShedState.code : ShedState → Nat
  | .none => 0 | .pending => 1 | .done => 2 | .failed => 3

def SpanState.code : SpanState → Nat
  | .opened => 0 | .pendingBar => 1 | .barred => 2

def TruckState.code : TruckState → Nat
  | .free => 0 | .standby => 1 | .queued => 2 | .raisePending => 3 | .drawing => 4 | .lowering => 5 | .silent => 6

def FeedState.code : FeedState → Nat
  | .noReport => 0 | .inService => 1 | .late => 2 | .out => 3

def StoreState.code : StoreState → Nat
  | .idle => 0 | .writing _ => 1

def Confidence.code : Confidence → Nat
  | .known => 0 | .stale => 1

def ChannelState.code : ChannelState → Nat
  | .idle => 0 | .present => 1 | .trailing => 2

def GrantOutcome.code : GrantOutcome → Nat
  | .met => 0 | .breached => 1 | .overflow => 2

/-- Raise grant result codes. -/
def grantResultCode (applied : Bool) : Nat := if applied then 1 else 2

def bit (b : Bool) (n : Nat) : Nat := if b then 2 ^ n else 0

/-- The fault hold flags byte. -/
def FaultFlags.code (f : FaultFlags) : Nat :=
  bit f.unauthorisedContact 0 + bit f.barredEntry 1 + bit f.overdrawA 2 + bit f.overdrawB 3 + bit f.phantomOverflow 4

/-- The two bytes of event flags. -/
def EventFlags.code (e : EventFlags) : Nat :=
  bit e.truckSilent 0 + bit e.truckLost 1 + bit e.raiseTimeout 2 + bit e.limitNoncompliant 3 + bit e.feedLateA 4
    + bit e.feedLateB 5 + bit e.feedOutA 6 + bit e.feedOutB 7 + bit e.shedFailedA 8 + bit e.shedFailedB 9
    + bit e.positionLost 10 + bit e.storeDone 11 + bit e.storeFailed 12

/-! ### Bytes -/

def byte (n : Nat) : Byte := BitVec.ofNat 8 n

/-- Two bytes, high byte first (R163). -/
def bytes2 (n : Nat) : List Byte := [byte (n / 256), byte n]

/-- Four bytes, high byte first (R163). -/
def bytes4 (n : Nat) : List Byte := [byte (n / 16777216), byte (n / 65536), byte (n / 256), byte n]

/-- A two-byte field read back, high byte first. -/
def word (hi lo : Byte) : U16 := hi ++ lo

/-! ### The frame check (R160) -/

/-- One step of the division by x^16 + x^15 + x^2 + 1, most significant bit first. -/
def checkShift (c : U16) : U16 := if c.msb then (c <<< 1) ^^^ 0x8005#16 else c <<< 1

/-- A byte entering the check, most significant bit first. -/
def checkByte (c : U16) (b : Byte) : U16 :=
  checkShift (checkShift (checkShift (checkShift (checkShift (checkShift (checkShift (checkShift
    (c ^^^ (b.setWidth 16 <<< 8)))))))))

/-- The check value of a list of bytes: initial value 0, no reflection, no final inversion (R160). -/
def checkValue (bs : List Byte) : U16 := bs.foldl checkByte 0

/-! ### Report items (R166) -/

/-- One item of a report part: its bytes, and, for an optional item, whether it is present. -/
structure Item where
  bytes : List Byte
  mark : Option Bool
  deriving DecidableEq, Repr

def item1 (n : Nat) : Item := ⟨[byte n], none⟩

def item2 (n : Nat) : Item := ⟨bytes2 n, none⟩

def item4 (n : Nat) : Item := ⟨bytes4 n, none⟩

def itemYes (b : Bool) : Item := item1 (if b then 1 else 0)

/-- An optional item of `width` bytes; absent it is sent as zeros (R166). -/
def itemOpt (width : Nat) : Option (List Byte) → Item
  | none => ⟨List.replicate width 0, some false⟩
  | some bs => ⟨bs, some true⟩

/-- An optional time of the time base. -/
def itemTime (t : Option Time) : Item := itemOpt 4 (t.map fun d => bytes4 d.toNat)

/-- The presence field: bit `k` stands for the `k`th optional item. -/
def presenceBits : List Bool → Nat
  | [] => 0
  | b :: bs => bit b 0 + 2 * presenceBits bs

/-- The contents of a part: a part that holds an optional item begins with the presence field (R166). -/
def contents (items : List Item) : List Byte :=
  let marks := items.filterMap Item.mark
  (if marks.isEmpty then [] else bytes2 (presenceBits marks)) ++ (items.map Item.bytes).flatten

end Sys2Proof.Machine
end

