-- ==== Sys2Proof/Machine/Frames.lean ====
section
/-! DEFINITION. Frame layouts (R160, R163): the request kinds with their ports and payload lengths, reading a request
from a payload and laying one out, the examination of a complete frame, and the frame of an answer. -/

namespace Sys2Proof.Machine

def allKinds : List ReqKind :=
  [.join, .status, .raise, .cancel, .leave, .feedReport, .shed, .shedRelease, .setSpan, .setSpanCount, .setParam, .store,
   .run, .stop, .isoFrom, .isoTo, .isoApply, .restore, .clearFaults, .clearPhantom, .evict, .clearCounters, .warmReset,
   .querySection, .queryTrucks, .queryLine, .queryFeeds, .querySpans, .queryGrants]

/-- Request kind codes (R163). -/
def ReqKind.code : ReqKind → Byte
  | .join => 0x10 | .status => 0x11 | .raise => 0x12 | .cancel => 0x13 | .leave => 0x14
  | .feedReport => 0x20 | .shed => 0x21 | .shedRelease => 0x22
  | .setSpan => 0x30 | .setSpanCount => 0x31 | .setParam => 0x32 | .store => 0x33 | .run => 0x34 | .stop => 0x35
  | .isoFrom => 0x36 | .isoTo => 0x37 | .isoApply => 0x38 | .restore => 0x39 | .clearFaults => 0x3A
  | .clearPhantom => 0x3B | .evict => 0x3C | .clearCounters => 0x3D | .warmReset => 0x3E
  | .querySection => 0x40 | .queryTrucks => 0x41 | .queryLine => 0x42 | .queryFeeds => 0x43 | .querySpans => 0x44
  | .queryGrants => 0x45

/-- The kind of a code, if it is a request kind. -/
def kindOfCode (b : Byte) : Option ReqKind := allKinds.find? fun k => k.code == b

/-- The kinds each port accepts (R163). -/
def ReqKind.onPort (k : ReqKind) : Port → Bool
  | .truck =>
    match k with
    | .join | .status | .raise | .cancel | .leave => true
    | _ => false
  | .feedA | .feedB =>
    match k with
    | .feedReport | .shed | .shedRelease => true
    | _ => false
  | .dispatch =>
    match k with
    | .join | .status | .raise | .cancel | .leave | .feedReport | .shed | .shedRelease => false
    | _ => true

/-- The payload length fixed for a kind (R163). -/
def ReqKind.length : ReqKind → Nat
  | .join => 2 | .status => 10 | .raise => 8 | .cancel => 3 | .leave => 3
  | .feedReport => 8 | .shed => 2 | .shedRelease => 0
  | .setSpan => 4 | .setSpanCount => 1 | .setParam => 3 | .store => 0 | .run => 0 | .stop => 0
  | .isoFrom => 1 | .isoTo => 1 | .isoApply => 0 | .restore => 2 | .clearFaults => 0
  | .clearPhantom => 1 | .evict => 1 | .clearCounters => 0 | .warmReset => 0
  | .querySection => 1 | .queryTrucks => 1 | .queryLine => 1 | .queryFeeds => 1 | .querySpans => 1 | .queryGrants => 1

/-- The feed whose port it is. -/
def portFeed : Port → Feed
  | .feedB => .b
  | _ => .a

/-! A payload read as so many bytes; a payload of another length spells nothing. -/

def read0 (i : Instr) : List Byte → Option Instr
  | [] => some i
  | _ => none

def read1 (f : Byte → Instr) : List Byte → Option Instr
  | [a] => some (f a)
  | _ => none

def read2 (f : Byte → Byte → Instr) : List Byte → Option Instr
  | [a, b] => some (f a b)
  | _ => none

def read3 (f : Byte → Byte → Byte → Instr) : List Byte → Option Instr
  | [a, b, c] => some (f a b c)
  | _ => none

def read4 (f : Byte → Byte → Byte → Byte → Instr) : List Byte → Option Instr
  | [a, b, c, d] => some (f a b c d)
  | _ => none

def read8 (f : Byte → Byte → Byte → Byte → Byte → Byte → Byte → Byte → Instr) : List Byte → Option Instr
  | [a, b, c, d, e, g, h, i] => some (f a b c d e g h i)
  | _ => none

def read10 (f : Byte → Byte → Byte → Byte → Byte → Byte → Byte → Byte → Byte → Byte → Instr) :
    List Byte → Option Instr
  | [a, b, c, d, e, g, h, i, j, k] => some (f a b c d e g h i j k)
  | _ => none

/-- The request that a payload of the kind's length spells on port `p` (R163). -/
def parseRequest (p : Port) : ReqKind → List Byte → Option Instr
  | .join => read2 fun a b => .join (word a b)
  | .status => read10 fun n a b u c d e f g h => .status n (word a b) u (word c d) (word e f) (word g h)
  | .raise => read8 fun n a b x c d e f => .raise n (word a b) x (word c d) (word e f)
  | .cancel => read3 fun n a b => .cancel n (word a b)
  | .leave => read3 fun n a b => .leave n (word a b)
  | .feedReport => read8 fun i a b c d x e f => .feedReport (portFeed p) i (word a b) (word c d) x (word e f)
  | .shed => read2 fun a b => .shed (portFeed p) (word a b)
  | .shedRelease => read0 (.shedRelease (portFeed p))
  | .setSpan => read4 fun i a b r => .setSpan i (word a b) r
  | .setSpanCount => read1 .setSpanCount
  | .setParam => read3 fun n a b => .setParam n (word a b)
  | .store => read0 .store
  | .run => read0 .run
  | .stop => read0 .stop
  | .isoFrom => read1 .isoFrom
  | .isoTo => read1 .isoTo
  | .isoApply => read0 .isoApply
  | .restore => read2 .restore
  | .clearFaults => read0 .clearFaults
  | .clearPhantom => read1 .clearPhantom
  | .evict => read1 .evict
  | .clearCounters => read0 .clearCounters
  | .warmReset => read0 .warmReset
  | .querySection => read1 .querySection
  | .queryTrucks => read1 .queryTrucks
  | .queryLine => read1 .queryLine
  | .queryFeeds => read1 .queryFeeds
  | .querySpans => read1 .querySpans
  | .queryGrants => read1 .queryGrants

/-- The two bytes of a two-byte field, high byte first. -/
def split (w : U16) : List Byte := [w.extractLsb' 8 8, w.extractLsb' 0 8]

/-- A request command as its port, kind and payload (R163); an event command is no frame. -/
def requestParts : Instr → Option (Port × ReqKind × List Byte)
  | .join f => some (.truck, .join, split f)
  | .status n f u i m w => some (.truck, .status, n :: split f ++ u :: split i ++ split m ++ split w)
  | .raise n f x r i => some (.truck, .raise, n :: split f ++ x :: split r ++ split i)
  | .cancel n f => some (.truck, .cancel, n :: split f)
  | .leave n f => some (.truck, .leave, n :: split f)
  | .feedReport p i v c b o =>
    some ((match p with | .a => .feedA | .b => .feedB), .feedReport, i :: split v ++ split c ++ b :: split o)
  | .shed p c => some ((match p with | .a => .feedA | .b => .feedB), .shed, split c)
  | .shedRelease p => some ((match p with | .a => .feedA | .b => .feedB), .shedRelease, [])
  | .setSpan i l r => some (.dispatch, .setSpan, i :: split l ++ [r])
  | .setSpanCount n => some (.dispatch, .setSpanCount, [n])
  | .setParam n v => some (.dispatch, .setParam, n :: split v)
  | .store => some (.dispatch, .store, [])
  | .run => some (.dispatch, .run, [])
  | .stop => some (.dispatch, .stop, [])
  | .isoFrom a => some (.dispatch, .isoFrom, [a])
  | .isoTo b => some (.dispatch, .isoTo, [b])
  | .isoApply => some (.dispatch, .isoApply, [])
  | .restore a b => some (.dispatch, .restore, [a, b])
  | .clearFaults => some (.dispatch, .clearFaults, [])
  | .clearPhantom n => some (.dispatch, .clearPhantom, [n])
  | .evict n => some (.dispatch, .evict, [n])
  | .clearCounters => some (.dispatch, .clearCounters, [])
  | .warmReset => some (.dispatch, .warmReset, [])
  | .querySection n => some (.dispatch, .querySection, [n])
  | .queryTrucks n => some (.dispatch, .queryTrucks, [n])
  | .queryLine n => some (.dispatch, .queryLine, [n])
  | .queryFeeds n => some (.dispatch, .queryFeeds, [n])
  | .querySpans n => some (.dispatch, .querySpans, [n])
  | .queryGrants n => some (.dispatch, .queryGrants, [n])
  | .frameDiscarded _ _ | .frameTimeout _ | .coldReset | .coldResetEnd | .warmRstNAssert | .warmResetEnd
  | .warmResetAfterAck | .storeWriteEnd _ | .detectorRise _ | .detectorFall _ | .blankingDeadline _
  | .overlongDeadline _ | .feedLateDeadline _ | .feedOutDeadline _ | .shedDeadline _ | .idleDeadline _
  | .holdoffExpiry _ | .raiseConfirmDeadline _ | .lowerConfirmDeadline _ | .cutAcknowledgeDeadline _
  | .silenceDeadline _ | .silentHoldDeadline _ | .queueWaitDeadline _ | .spacingDeadline | .nextJointDeadline _
  | .lostDeadline _ | .phantomExpiry _ | .cycleDeadline | .commit | .frameStart _ _ | .answerSent _ => none

/-- What the examination of a complete frame decides (R160). -/
inductive Verdict where
  | badCheck
  | unknownKind
  | badLength
  | taken (request : Instr)
  deriving DecidableEq, Repr

/-- The check value over a frame's kind, length and payload (R160). -/
def frameCheck (kind : Byte) (payload : List Byte) : U16 := checkValue (kind :: byte payload.length :: payload)

/-- The examination of a complete frame: check, kind, length, in this order (R160). -/
def examine (p : Port) (kind : Byte) (payload : List Byte) (check : U16) : Verdict :=
  if check ≠ frameCheck kind payload then .badCheck
  else
    match kindOfCode kind with
    | none => .unknownKind
    | some k =>
      if !k.onPort p then .unknownKind
      else if payload.length ≠ k.length then .badLength
      else
        match parseRequest p k payload with
        | none => .badLength
        | some i => .taken i

/-- The bytes of a frame (R163). -/
def frameBytes (kind : Byte) (payload : List Byte) : List Byte :=
  0xA5 :: kind :: byte payload.length :: payload ++ split (frameCheck kind payload)

/-- The bytes of a request's frame. -/
def requestFrame (i : Instr) : Option (Port × List Byte) :=
  (requestParts i).map fun x => (x.1, frameBytes x.2.1.code x.2.2)

/-! ### Answers (R162, R163) -/

/-- Answer kind codes. -/
def Answer.code : Answer → Byte
  | .ack _ _ _ => 0x80
  | .refused _ _ _ => 0x81
  | .slot _ _ => 0x82
  | .limit _ _ _ _ _ _ => 0x83
  | .demand _ _ _ _ _ _ _ => 0x84
  | .report _ _ _ => 0x85

/-- The flags byte: bit 0 ISO_SEQ_RESET. -/
def flagsByte (isoReset : Bool) : Byte := if isoReset then 1 else 0

/-- The payload of an answer; an absent lower-by joint is 0xFF, an absent shed capacity 0xFFFF. -/
def Answer.payload : Answer → List Byte
  | .ack k r echo => k.code :: flagsByte r :: echo
  | .refused k reason r => [k.code, byte reason.code, flagsByte r]
  | .slot n reason => [byte n, byte (reasonCode reason)]
  | .limit n d issued low pos refusal =>
    byte n :: byte d.code :: bytes2 issued ++ [byte (low.getD 0xFF), byte pos, byte (reasonCode refusal)]
  | .demand share mode sect shed cap faults drawing =>
    bytes2 share ++ [byte mode.code, byte sect.code, byte shed.code] ++ bytes2 (cap.getD 0xFFFF)
      ++ [byte faults.code, byte drawing]
  | .report k part contents => k.code :: byte part :: contents

/-- The bytes an answer is sent as. -/
def Answer.frame (a : Answer) : List Byte := frameBytes a.code a.payload

end Sys2Proof.Machine
end

