-- ==== Sys2Proof/WellFormed.lean ====
section
/-! DEFINITION. Well-formed commands. The operands' types hold their ranges (a slot, a joint, a phantom number, the
width of a field), so what is left to check is that a FRAME_DISCARDED names something that is discarded. -/

namespace Sys2Proof

/-- What was received is a frame, or part of one, that R159 or R160 discards on port `p`: a payload of at most 40
bytes that fails the examination, a length byte of 41 to 255, or a missing stop bit. -/
def Discard.wellFormed (p : Port) : Discard → Bool
  | .complete kind payload check =>
    payload.length ≤ 40 &&
      match Machine.examine p kind payload check with
      | .taken _ => false
      | _ => true
  | .lengthByte value => 41 ≤ value.toNat
  | .missingStop => true

/-- The command is one that the outside or the block can send. -/
def Instr.wellFormed : Instr → Bool
  | .frameDiscarded p what => what.wellFormed p
  | .join _ | .status _ _ _ _ _ _ | .raise _ _ _ _ _ | .cancel _ _ | .leave _ _ | .feedReport _ _ _ _ _ _ | .shed _ _
  | .shedRelease _ | .setSpan _ _ _ | .setSpanCount _ | .setParam _ _ | .store | .run | .stop | .isoFrom _ | .isoTo _
  | .isoApply | .restore _ _ | .clearFaults | .clearPhantom _ | .evict _ | .clearCounters | .warmReset
  | .querySection _ | .queryTrucks _ | .queryLine _ | .queryFeeds _ | .querySpans _ | .queryGrants _ | .frameTimeout _
  | .coldReset | .coldResetEnd | .warmRstNAssert | .warmResetEnd | .warmResetAfterAck | .storeWriteEnd _
  | .detectorRise _ | .detectorFall _ | .blankingDeadline _ | .overlongDeadline _ | .feedLateDeadline _
  | .feedOutDeadline _ | .shedDeadline _ | .idleDeadline _ | .holdoffExpiry _ | .raiseConfirmDeadline _
  | .lowerConfirmDeadline _ | .cutAcknowledgeDeadline _ | .silenceDeadline _ | .silentHoldDeadline _
  | .queueWaitDeadline _ | .spacingDeadline | .nextJointDeadline _ | .lostDeadline _ | .phantomExpiry _ | .cycleDeadline
  | .commit | .frameStart _ _ | .answerSent _ => true

end Sys2Proof
end

