-- ==== Sys2Proof/Decode.lean ====
section
/-! DEFINITION. The decoder over the opcode table's bits. No row of spec/opcode_table.json gives bits, so no word spells
a command; frames are read by `Sys2Proof.Machine.examine` (R160, R163). -/

namespace Sys2Proof

/-- The command a word of `nbits` bits spells by the table's bits: none, as no row of the table gives bits. -/
def decodeTableWord (_nbits _w : Nat) : Option Instr := none

end Sys2Proof
end

