-- ==== Sys2Proof/Machine/Drop.lean ====
section
/-! DEFINITION. The drop calculator (chapter 2): pure functions of an input set, in exact arithmetic (R17, R36, R37). -/

namespace Sys2Proof.Machine

/-! ### Derived resistances (R6) -/

/-- P(s) for the spans whose resistances are listed, `below` being the sum of the resistances below them. -/
def pList (below : Nat) : List Nat → List Nat
  | [] => []
  | r :: rs => (2 * below + r) :: pList (below + r) rs

/-- T, P and Q of the resistances of spans 0 to N-1 (R6). -/
def netOf (rs : List Nat) : Net :=
  let t := 2 * rs.sum
  let p := pList 0 rs
  { n := rs.length, t := t, p := p, q := p.map fun x => t - x }

def Net.pAt (net : Net) (s : Nat) : Nat := net.p.getD s 0

def Net.qAt (net : Net) (s : Nat) : Nat := net.q.getD s 0

/-! ### Transfer resistance -/

/-- Z(a, b) in hm (R20, R21); in mode NONE none is computed, and 0 stands for it. -/
def transfer (mode : FeedMode) (net : Net) (a b : Nat) : Nat :=
  match mode with
  | .both => ceilDiv (net.pAt (min a b) * net.qAt (max a b)) net.t
  | .aOnly => net.pAt (min a b)
  | .bOnly => net.qAt (max a b)
  | .none => 0

/-- The model span of an entry on span `s` (R35). -/
def modelSpan (mode : FeedMode) (net : Option Net) (conf : Confidence) (s : Nat) : Nat :=
  match conf, mode, net with
  | .known, _, _ => s
  | .stale, .none, _ => s
  | .stale, _, none => s
  | .stale, m, some net =>
    if s + 1 ≥ net.n then s
    else if transfer m net s s > transfer m net (s + 1) (s + 1) then s else s + 1

/-! ### Input sets (R18, R19) -/

/-- A charged entry. -/
structure Charged where
  isTruck : Bool
  span : Nat
  charge : Nat
  deriving DecidableEq, Repr

/-- An input set without its candidate. -/
structure InputSet where
  mode : FeedMode
  vFeed : Nat
  vMin : Nat
  capA : Nat
  capB : Nat
  net : Option Net
  entries : List Charged
  deriving DecidableEq, Repr

/-- The candidate of a headroom increment; `listed` says that it is one of the entries. -/
structure Candidate where
  span : Nat
  request : Nat
  iMin : Nat
  listed : Bool
  deriving DecidableEq, Repr

/-- The sum of the charges. -/
def totalCharge (es : List Charged) : Nat := (es.map Charged.charge).sum

/-- The drop sum at span `m`: the sum over every entry of Z(m, m_j) * C_j (R22, R29). -/
def dropSum (mode : FeedMode) (net : Net) (es : List Charged) (m : Nat) : Nat :=
  (es.map fun e => transfer mode net m e.span * e.charge).sum

/-- U_A (R25). -/
def loadA (net : Net) (es : List Charged) : Nat := (es.map fun e => e.charge * net.qAt e.span).sum

/-- U_B (R25). -/
def loadB (net : Net) (es : List Charged) : Nat := (es.map fun e => e.charge * net.pAt e.span).sum

/-- The drop in V at span `m` (R22); 0 in mode NONE and with no derived resistances (R17). -/
def dropAt (inp : InputSet) (m : Nat) : Nat :=
  match inp.net with
  | none => 0
  | some net => if inp.mode = .none then 0 else ceilDiv (dropSum inp.mode net inp.entries m) 2000

/-- The voltage estimate at span `m` (R23); 0 in mode NONE and with no derived resistances (R17). -/
def estimateAt (inp : InputSet) (m : Nat) : Nat :=
  match inp.net with
  | none => 0
  | some _ => if inp.mode = .none then 0 else inp.vFeed - dropAt inp m

/-- The shares (share_A, share_B) (R25, R26). -/
def shares (inp : InputSet) : Nat × Nat :=
  match inp.net with
  | none => (0, 0)
  | some net =>
    match inp.mode with
    | .both => (ceilDiv (loadA net inp.entries) net.t, ceilDiv (loadB net inp.entries) net.t)
    | .aOnly => (totalCharge inp.entries, 0)
    | .bOnly => (0, totalCharge inp.entries)
    | .none => (0, 0)

/-! ### Limits -/

/-- The voltage bound B_V in hm*A (R24). -/
def voltageBound (inp : InputSet) : Int := 2000 * ((inp.vFeed : Int) - (inp.vMin : Int))

/-- Whether a TRUCK entry at span `m` meets its floor (R24); no floor is tested in mode NONE. -/
def meetsFloor (inp : InputSet) (m : Nat) : Bool :=
  match inp.net with
  | none => true
  | some net => inp.mode = .none || decide ((dropSum inp.mode net inp.entries m : Int) ≤ voltageBound inp)

/-- The capacity check of A (R28). -/
def meetsCapA (inp : InputSet) : Bool :=
  match inp.net with
  | none => true
  | some net =>
    match inp.mode with
    | .both => loadA net inp.entries ≤ net.t * inp.capA
    | .aOnly => totalCharge inp.entries ≤ inp.capA
    | .bOnly => true
    | .none => totalCharge inp.entries = 0

/-- The capacity check of B (R28). -/
def meetsCapB (inp : InputSet) : Bool :=
  match inp.net with
  | none => true
  | some net =>
    match inp.mode with
    | .both => loadB net inp.entries ≤ net.t * inp.capB
    | .aOnly => true
    | .bOnly => totalCharge inp.entries ≤ inp.capB
    | .none => totalCharge inp.entries = 0

/-- The set meets every limit (R28). -/
def meetsLimits (inp : InputSet) : Bool :=
  inp.entries.all (fun e => !e.isTruck || meetsFloor inp e.span) && meetsCapA inp && meetsCapB inp

/-! ### The headroom increment -/

/-- A room divided by the growth per ampere, rounded down; 0 when there is no room (R30, R31, R37). -/
def term (room : Int) (growth : Nat) : Nat := if room ≤ 0 then 0 else room.toNat / growth

/-- The spans of the voltage constraint points of an increment (R29). -/
def constraintSpans (inp : InputSet) (c : Candidate) : List Nat :=
  (inp.entries.filter Charged.isTruck).map Charged.span ++ (if c.listed then [] else [c.span])

/-- The voltage terms (R30). -/
def voltageTerms (inp : InputSet) (net : Net) (c : Candidate) : List Nat :=
  (constraintSpans inp c).map fun m =>
    term (voltageBound inp - dropSum inp.mode net inp.entries m) (transfer inp.mode net m c.span)

/-- The capacity terms (R31, R32). -/
def capacityTerms (inp : InputSet) (net : Net) (c : Candidate) : List Nat :=
  match inp.mode with
  | .both =>
    [term ((net.t * inp.capA : Nat) - (loadA net inp.entries : Nat)) (net.qAt c.span),
     term ((net.t * inp.capB : Nat) - (loadB net inp.entries : Nat)) (net.pAt c.span)]
  | .aOnly => [inp.capA - totalCharge inp.entries]
  | .bOnly => [inp.capB - totalCharge inp.entries]
  | .none => [0]

/-- The smallest of `x` and a list. -/
def minOf (x : Nat) (xs : List Nat) : Nat := xs.foldl min x

/-- Steps 2 and 3 of R33: down to the grant quantum, and 0 below I_min. -/
def cutIncrement (x iMin : Nat) : Nat :=
  let r := x / Config.quantum * Config.quantum
  if r < iMin then 0 else r

/-- The headroom increment (R29 to R33); 0 in mode NONE (R32) and with no derived resistances (R17). -/
def headroom (inp : InputSet) (c : Candidate) : Nat :=
  match inp.net with
  | none => 0
  | some net =>
    if inp.mode = .none then 0
    else cutIncrement (minOf c.request (voltageTerms inp net c ++ capacityTerms inp net c)) c.iMin

end Sys2Proof.Machine
end

