-- ==== Sys2Proof/Machine/Flags.lean ====
section
/-! DEFINITION. The fault hold flags and the event flags of section control: setting each (R151, R153), whether any
fault is held, and what CLEAR_FAULTS leaves (R152). -/

namespace Sys2Proof.Machine

/-- Some fault hold flag is set. -/
def FaultFlags.any (f : FaultFlags) : Bool :=
  f.unauthorisedContact || f.barredEntry || f.overdrawA || f.overdrawB || f.phantomOverflow

/-- The OVERDRAW flag of a feed, set (R49). -/
def FaultFlags.setOverdraw (f : FaultFlags) : Feed → FaultFlags
  | .a => { f with overdrawA := true }
  | .b => { f with overdrawB := true }

/-- What CLEAR_FAULTS leaves: PHANTOM_OVERFLOW stays set while there are four phantom entries (R152). -/
def FaultFlags.cleared (f : FaultFlags) (phantoms : Nat) : FaultFlags :=
  { phantomOverflow := f.phantomOverflow && phantoms == 4 }

/-- The FEED_LATE flag of a feed, set (R41). -/
def EventFlags.setFeedLate (e : EventFlags) : Feed → EventFlags
  | .a => { e with feedLateA := true }
  | .b => { e with feedLateB := true }

/-- The FEED_OUT flag of a feed, set (R40, R42). -/
def EventFlags.setFeedOut (e : EventFlags) : Feed → EventFlags
  | .a => { e with feedOutA := true }
  | .b => { e with feedOutB := true }

/-- The SHED_FAILED flag of a feed, set (R54). -/
def EventFlags.setShedFailed (e : EventFlags) : Feed → EventFlags
  | .a => { e with shedFailedA := true }
  | .b => { e with shedFailedB := true }

end Sys2Proof.Machine
end

