-- ==== Sys2Proof/Machine/Ops.lean ====
section
/-! DEFINITION. The shared operations over the state: times and deadlines, one home for each record, the derived figures
of the feeds, the line order, the truck transitions that several rules share, and the answers of a port. -/

namespace Sys2Proof.Machine

/-! ### Time (00_scope.md 3.3, R155) -/

/-- `d` lies ahead of the count: (d - now) modulo 2^32 is from 1 to 2^31 - 1 (R155). -/
def ahead (d now : Time) : Bool := 1 ≤ (d - now).toNat && (d - now).toNat ≤ 2147483647

/-- The count has reached `d`. -/
def reached (d now : Time) : Bool := !ahead d now

/-- The deadline is set and the count has reached it; an absent deadline never passes (00_scope.md 3.3). -/
def due (d : Option Time) (now : Time) : Bool :=
  match d with
  | none => false
  | some d => reached d now

/-- The time `ms` after `t`. -/
def after (t : Time) (ms : Nat) : Time := t + BitVec.ofNat 32 ms

/-- The ms from `t` to `now`, modulo 2^32. -/
def elapsed (t now : Time) : Nat := (now - t).toNat

/-! ### Homes of the records -/

def State.truck (s : State) (k : Slot) : Truck := s.trucks[k]

def State.setTruck (s : State) (k : Slot) (t : Truck) : State := { s with trucks := s.trucks.set k.val t k.isLt }

def State.channel (s : State) (j : Joint) : Channel := s.channels[j]

def State.setChannel (s : State) (j : Joint) (c : Channel) : State :=
  { s with channels := s.channels.set j.val c j.isLt }

def State.setDet (s : State) (j : Joint) (b : Bool) : State := { s with det := s.det.set j.val b j.isLt }

def State.side (s : State) : Feed → FeedSide
  | .a => s.feedA
  | .b => s.feedB

def State.setSide (s : State) (f : Feed) (x : FeedSide) : State :=
  match f with
  | .a => { s with feedA := x }
  | .b => { s with feedB := x }

def State.port (s : State) : Port → PortState
  | .truck => s.truckPort
  | .feedA => s.feedPortA
  | .feedB => s.feedPortB
  | .dispatch => s.dispatchPort

def State.setPort (s : State) (p : Port) (x : PortState) : State :=
  match p with
  | .truck => { s with truckPort := x }
  | .feedA => { s with feedPortA := x }
  | .feedB => { s with feedPortB := x }
  | .dispatch => { s with dispatchPort := x }

/-- The feed port of a feed. -/
def feedPort : Feed → Port
  | .a => .feedA
  | .b => .feedB

/-- A span record by its index; records beyond 15 do not exist. -/
def State.spanRec (s : State) (i : Nat) : SpanRec := s.spans[i]?.getD {}

def State.spanState (s : State) (i : Nat) : SpanState := s.spanStates[i]?.getD .opened

def State.setSpanState (s : State) (i : Nat) (x : SpanState) : State :=
  { s with spanStates := s.spanStates.setIfInBounds i x }

def allSlots : List Slot := [0, 1, 2, 3, 4, 5, 6, 7, 8, 9, 10, 11]

def allJoints : List Joint := [0, 1, 2, 3, 4, 5, 6, 7, 8, 9, 10, 11, 12, 13, 14, 15, 16]

def allPhantomNos : List PhantomNo := [0, 1, 2, 3]

def allFeeds : List Feed := [.a, .b]

def allPorts : List Port := [.truck, .feedA, .feedB, .dispatch]

/-! ### Configuration (R5, R6) -/

/-- The configuration is valid (R5). -/
def configValid (spanCount : Option Nat) (spans : Vector SpanRec 16) : Bool :=
  match spanCount with
  | none => false
  | some n => (spans.toList.take n).all SpanRec.written

def State.valid (s : State) : Bool := configValid s.spanCount s.spans

/-- N as the other blocks see it: absent while the configuration is invalid (R90, R139, R147; log 14). -/
def State.n (s : State) : Option Nat := if s.valid then s.spanCount else none

/-- `i` is the index of a span of the section. -/
def State.inSection (s : State) (i : Nat) : Bool :=
  match s.n with
  | none => false
  | some n => i < n

/-- The derived resistances of the working configuration (R6). -/
def State.computeNet (s : State) : Option Net :=
  s.n.map fun n => netOf ((s.spans.toList.take n).map SpanRec.resistance)

/-- Validity is evaluated and handed to section control (R5, R6). -/
def State.evaluateValidity (s : State) : State :=
  { s with
    derived := s.computeNet
    sect := match s.sect, s.valid with
      | .unconfigured, true => .stopped
      | .stopped, false => .unconfigured
      | x, _ => x }

/-! ### Feeds (R43 to R45) -/

/-- The feed counts as in service: IN_SERVICE or LATE. -/
def FeedRec.inService (r : FeedRec) : Bool := r.state == .inService || r.state == .late

/-- The feed mode (R43). -/
def State.feedMode (s : State) : FeedMode :=
  match s.feedA.feed.inService, s.feedB.feed.inService with
  | true, true => .both
  | true, false => .aOnly
  | false, true => .bOnly
  | false, false => .none

/-- V_feed (R44). -/
def State.vFeed (s : State) : Nat :=
  match s.feedMode with
  | .both => min s.feedA.feed.volts s.feedB.feed.volts
  | .aOnly => s.feedA.feed.volts
  | .bOnly => s.feedB.feed.volts
  | .none => 0

/-- The shed capacity in force, if the shed is PENDING, DONE or FAILED. -/
def ShedRec.inForce (r : ShedRec) : Option Nat := if r.state = .none then none else some r.capacity

/-- The capacity in use of a feed (R45). -/
def State.capacityInUse (s : State) (f : Feed) : Nat :=
  let x := s.side f
  if x.feed.inService then
    let c := if x.feed.state = .late then min x.feed.capacity s.params.fallbackCapacity else x.feed.capacity
    match x.shed.inForce with
    | none => c
    | some k => min c k
  else 0

/-! ### The line order (R80 to R84) -/

def Entry.isPhantom (e : Entry) : Bool :=
  match e.kind with
  | .truck _ => false
  | .phantom _ _ _ _ => true

def Entry.isTruckOf (e : Entry) (k : Slot) : Bool :=
  match e.kind with
  | .truck j => j == k
  | .phantom _ _ _ _ => false

def Entry.isPhantomNo (e : Entry) (n : PhantomNo) : Bool :=
  match e.kind with
  | .truck _ => false
  | .phantom m _ _ _ => m == n

def Entry.isRef (e : Entry) : EntryRef → Bool
  | .truck k => e.isTruckOf k
  | .phantom n => e.isPhantomNo n

/-- The entry is a phantom whose origin tag holds the slot and fleet number (R100). -/
def Entry.hasOrigin (e : Entry) (k : Slot) (fleet : U16) : Bool :=
  match e.kind with
  | .phantom _ _ _ (some (j, g)) => j == k && g == fleet
  | _ => false

/-- The entry with its origin tag removed when it names the slot (R65, R100). -/
def Entry.forget (k : Slot) (e : Entry) : Entry :=
  match e.kind with
  | .phantom n c x (some (j, g)) => if j = k then { e with kind := .phantom n c x none } else { e with kind := .phantom n c x (some (j, g)) }
  | _ => e

def phantomsIn (line : List Entry) : Nat := line.countP Entry.isPhantom

def State.occupied (s : State) (i : Nat) : Bool := s.line.any fun e => e.span == i

/-- The line order is replaced; the tracker reports the number of phantom entries to section control (R82). -/
def State.putLine (s : State) (line : List Entry) : State := { s with line := line, phantomCount := phantomsIn line }

/-- Isolation control is told that span `i` has emptied, if no entry is left on it: a PENDING_BAR span becomes BARRED
(R84, R143). -/
def State.tellEmptied (s : State) (i : Nat) : State :=
  if s.occupied i then s
  else if s.spanState i = .pendingBar then s.setSpanState i .barred
  else s

/-- Every entry that satisfies `q` is removed, and each span left empty is told to isolation control (R84). -/
def State.removeEntries (s : State) (q : Entry → Bool) : State :=
  (s.line.filter q).foldl (fun s e => s.tellEmptied e.span) (s.putLine (s.line.filter fun e => !q e))

/-- A queue entry whose requested span is `i` is altered by an entry that comes onto it (R111). -/
def QueueEntry.gained (i : Nat) (e : QueueEntry) : QueueEntry := if e.span = i then { e with altered := true } else e

/-- A pass has brought an entry onto span `i`: a grant computed for that span is not applied any more (R111, R135). -/
def State.spanGained (s : State) (i : Nat) : State := { s with queue := s.queue.map (QueueEntry.gained i) }

/-- Insertion at the rear of the group on its span: behind every entry on that span or a higher one, ahead of every
entry on a lower one (R81). -/
def insertEntry (e : Entry) : List Entry → List Entry
  | [] => [e]
  | a :: l => if a.span < e.span then e :: a :: l else a :: insertEntry e l

/-- The lowest phantom number that no phantom holds (R80). -/
def lowestFreePhantom (line : List Entry) : PhantomNo :=
  (allPhantomNos.find? fun n => !line.any fun e => e.isPhantomNo n).getD 3

/-- The stale interval for speed `v` over length `len` (R92). -/
def staleInterval (len v margin : Nat) : Nat := ceilDiv (ceilDiv (len * 1000000) v * 3) 2 + margin

/-- The entry KNOWN on its span, with its stale interval and next-joint deadline set from time `t` (R92). -/
def State.track (s : State) (e : Entry) (v : Nat) (t : Time) : Entry :=
  let i := staleInterval (s.spanRec e.span).length v s.params.staleMargin
  { e with conf := .known, stale := some i, nextJoint := some (after t i), lost := none }

/-- A fault hold flag set in section control (R151). -/
def State.setFaults (s : State) (f : FaultFlags) : State := { s with faults := f }

/-- An event flag set in section control (R153). -/
def State.setEvents (s : State) (e : EventFlags) : State := { s with events := e }

/-- PHANTOM_OVERFLOW is set (R82, R83). -/
def State.overflowed (s : State) : State := s.setFaults { s.faults with phantomOverflow := true }

/-- The truck entry of a slot as a phantom entry in the same place (R83). -/
def Entry.toPhantom (k : Slot) (n : PhantomNo) (current : Nat) (expiry : Time) (origin : Option (Slot × U16))
    (e : Entry) : Entry :=
  if e.isTruckOf k then { e with kind := .phantom n current expiry origin } else e

/-- Conversion in place of the truck entry of slot `k` (R83). -/
def State.convert (s : State) (k : Slot) (current : Nat) (origin : Option (Slot × U16)) : State :=
  if phantomsIn s.line < 4 then
    s.putLine (s.line.map (Entry.toPhantom k (lowestFreePhantom s.line) current
      (after s.now (s.params.phantomHold * 1000)) origin))
  else (s.removeEntries fun e => e.isTruckOf k).overflowed

/-- The model span of an entry in the feed mode of the moment (R35, R101). -/
def State.modelSpanOf (s : State) (e : Entry) : Nat := modelSpan s.feedMode s.derived e.conf e.span

/-- The span of a slot's entry. -/
def State.spanOfTruck (s : State) (k : Slot) : Option Nat :=
  (s.line.find? fun e => e.isTruckOf k).map Entry.span

/-! ### Trucks -/

/-- RAISE_PENDING, DRAWING, LOWERING and SILENT (R59). -/
def TruckState.inLine : TruckState → Bool
  | .raisePending | .drawing | .lowering | .silent => true
  | .free | .standby | .queued => false

/-- The exposure E (R69). -/
def Truck.exposure (t : Truck) : Nat := max t.issued t.inForce

/-- The slot and fleet number pass the check of R60. -/
def State.enrolled (s : State) (slot : Byte) (fleet : U16) : Option Slot :=
  match slotOf slot with
  | none => none
  | some k => if (s.truck k).state ≠ .free ∧ (s.truck k).fleet = some fleet then some k else none

/-- A frame is taken from the truck in slot `k` (R60). -/
def State.takenFrom (s : State) (k : Slot) : State :=
  let t := s.truck k
  s.setTruck k { t with
    lastFrame := some s.now
    idle := if t.state = .standby then some (after s.now (s.params.standbyIdle * 1000)) else t.idle }

/-- The silence deadline after a frame taken from the truck has had its effect (R72). -/
def State.setSilence (s : State) (k : Slot) : State :=
  let t := s.truck k
  match t.state with
  | .raisePending | .drawing | .lowering =>
    s.setTruck k { t with silence := some (after s.now s.params.silence) }
  | _ => s

/-- The re-raise holdoff from the time of entry; 0 s leaves it absent (R119). -/
def State.holdoffTime (s : State) : Option Time :=
  if s.params.holdoff = 0 then none else some (after s.now (s.params.holdoff * 1000))

/-- A record on entry to STANDBY (R68), with the holdoff expiry that the transition gives it (R119). -/
def Truck.standby (t : Truck) (idle : Time) (holdoff : Option Time) : Truck :=
  { t with
    state := .standby, throughout := false, issued := 0, inForce := 0
    raiseConfirm := none, lowerConfirm := none, cutAck := none, silence := none, silentHold := none, queueWait := none
    idle := some idle, holdoff := holdoff }

/-- The truck enters STANDBY (R68). -/
def State.enterStandby (s : State) (k : Slot) (holdoff : Option Time) : State :=
  s.setTruck k ((s.truck k).standby (after s.now (s.params.standbyIdle * 1000)) holdoff)

/-- The truck enters SILENT (R74). -/
def State.enterSilent (s : State) (k : Slot) : State :=
  s.setTruck k { s.truck k with
    state := .silent, throughout := false
    silence := none, raiseConfirm := none, lowerConfirm := none, cutAck := none
    silentHold := some (after s.now s.params.silentHold) }

/-- The cut-acknowledge deadline is evaluated (R70). -/
def State.evaluateCut (s : State) (k : Slot) : State :=
  let t := s.truck k
  s.setTruck k { t with
    cutAck :=
      if t.state = .drawing ∧ t.issued < t.inForce then
        some (t.cutAck.getD (after s.now s.params.cutAcknowledge))
      else none }

/-- A RAISE_PENDING or SILENT truck enters DRAWING (R75, R112). -/
def State.enterDrawing (s : State) (k : Slot) : State :=
  (s.setTruck k { s.truck k with
    state := .drawing, throughout := false, raiseConfirm := none, silentHold := none }).evaluateCut k

/-- A lower order for slot `k` (R114). -/
def State.lowerOrder (s : State) (k : Slot) : State :=
  let t := s.truck k
  match t.state with
  | .raisePending | .drawing =>
    s.setTruck k { t with
      state := .lowering, throughout := false, issued := 0, raiseConfirm := none, cutAck := none
      lowerConfirm := some (after s.now s.params.lowerConfirm) }
  | .silent => s.setTruck k { t with issued := 0 }
  | .free | .standby | .queued | .lowering => s

/-- The slot becomes FREE, and the origin tags that name it are cleared (R65). -/
def State.freeSlot (s : State) (k : Slot) : State :=
  (s.setTruck k {}).putLine (s.line.map (Entry.forget k))

/-- The slot's entry leaves the raise queue; the entries behind it close up (R102). -/
def State.unqueue (s : State) (k : Slot) : State := { s with queue := s.queue.filter fun e => e.slot ≠ k }

/-- The number of trucks in state DRAWING (R48). -/
def State.drawingCount (s : State) : Nat := allSlots.countP fun k => (s.truck k).state == .drawing

/-! ### The raise gate and HEALTHY (R109, R154) -/

/-- The six conditions of the raise gate, in the order of R109. -/
def State.gateConditions (s : State) : List Bool :=
  [s.sect == .running,
   s.feedMode != .none,
   !s.faults.any,
   s.feedA.shed.state != .pending && s.feedB.shed.state != .pending,
   allSlots.all fun k => (s.truck k).state != .raisePending,
   s.spacing.all fun d => reached d s.now]

def State.gateOpen (s : State) : Bool := s.gateConditions.all id

/-- A reset is in progress (R156, R157). -/
def State.inReset (s : State) : Bool := s.coldReset || s.warmHold

/-- The three conditions of HEALTHY, in the order of R154. -/
def State.healthyConditions (s : State) : List Bool :=
  [s.sect == .running, s.feedMode != .none, !s.faults.any]

/-- The HEALTHY output: also inactive while a reset pin is held active (R154). -/
def State.healthy (s : State) : Bool := !s.inReset && s.healthyConditions.all id

/-! ### Barred entry (R146) -/

/-- Isolation control is told that an entry of kind `kind` has come onto span `i` (R96 item 4, R97 item 3, R146). -/
def State.tellEntered (s : State) (i : Nat) (kind : EntryKind) : State :=
  if s.spanState i = .opened then s
  else
    let s := s.setFaults { s.faults with barredEntry := true }
    match kind with
    | .truck k => s.lowerOrder k
    | .phantom _ _ _ _ => s

/-! ### Ports -/

/-- The port's receiver takes bytes: no reset is in progress and no answer is being sent (R156 to R158). -/
def State.hears (s : State) (p : Port) : Bool := !s.inReset && (s.port p).tx.isNone

/-- The port sends an answer: its receiver waits in HUNT and its driver-enable line is asserted (R158). -/
def State.send (s : State) (p : Port) (a : Answer) : State :=
  s.setPort p { s.port p with rx := .hunt, tx := some ⟨a, s.now⟩ }

/-- Bytes that reach the port are lost because it sends an answer (R158). -/
def State.loses (s : State) (p : Port) : Bool := !s.inReset && (s.port p).tx.isSome

/-- The time from which a request with lost bytes runs out of its time is kept (R158; log 31). -/
def PortState.lose (x : PortState) (start : Time) : PortState := { x with lost := x.lost ++ [start] }

/-- A complete request frame on port `p`: it is handled by its rule and the answer is sent (R158, R160). A frame whose
bytes are lost while the port sends does not complete, and will run out of time (R158; log 31); in a reset the port takes
no bytes (R156, R157; log 7). -/
def State.request (s : State) (p : Port) (rule : State → State × Answer) : State :=
  if s.hears p then
    let r := rule s
    r.1.send p r.2
  else if s.loses p then s.setPort p ((s.port p).lose s.now)
  else s

/-- An isolation sequence is in progress (R142). -/
def State.isoBusy (s : State) : Bool := s.isoSeq != .none

/-- A dispatch request that is no query and none of the sequence's own: it abandons a sequence in progress, and its
answer carries ISO_SEQ_RESET when there was one (R142). -/
def State.abandoning (s : State) (rule : Bool → State → State × Answer) : State × Answer :=
  rule s.isoBusy { s with isoSeq := .none }

end Sys2Proof.Machine
end

