-- ==== Sys2Proof/Machine/Answers.lean ====
section
/-! DEFINITION. The two answers that are built from records: LIMIT (R77, R78, with the lower-by joint of R145) and DEMAND
(R48). -/

namespace Sys2Proof.Machine

/-- The span is in a barred state, PENDING_BAR or BARRED (R138). -/
def State.barredSpan (s : State) (i : Nat) : Bool := s.spanState i != .opened

/-- The lower-by joint from reference span `t` (R145). -/
def State.lowerByFrom (s : State) (t : Nat) : Option Nat :=
  match s.n with
  | none => none
  | some n =>
    match (List.range n).find? fun u => t ≤ u && s.barredSpan u with
    | none => none
    | some u => some (if u = t then t + 1 else u)

/-- The queue entry of a slot. -/
def State.queueEntry (s : State) (k : Slot) : Option QueueEntry := s.queue.find? fun e => e.slot == k

/-- The place of a slot in the raise queue, 1 at the head, 0 when it is not in it (R77). -/
def State.queuePosition (s : State) (k : Slot) : Nat :=
  match s.queue.findIdx? fun e => e.slot == k with
  | none => 0
  | some i => i + 1

/-- The reference span of a truck's lower-by joint (R145). -/
def State.referenceSpan (s : State) (k : Slot) : Option Nat :=
  match (s.truck k).state with
  | .free | .standby => none
  | .queued => (s.queueEntry k).map QueueEntry.span
  | .raisePending | .drawing | .lowering | .silent => s.spanOfTruck k

/-- The directive (R78). -/
def directive (st : TruckState) (p : Panto) : Directive :=
  match st, p with
  | .standby, .down => .stayDown
  | .standby, .up => .lower
  | .queued, .down => .wait
  | .queued, .up => .lower
  | .raisePending, _ => .raise
  | .drawing, _ => .draw
  | .lowering, _ => .lower
  | .silent, _ => .lower
  | .free, _ => .stayDown

/-- The LIMIT answer to the truck in slot `k` as its record stands (R77). -/
def State.limitAnswer (s : State) (k : Slot) : Answer :=
  let t := s.truck k
  .limit (k.val + 1) (directive t.state t.panto) t.issued ((s.referenceSpan k).bind s.lowerByFrom)
    (if t.state = .queued then s.queuePosition k else 0) t.refusal

/-- The LIMIT answer is built; a pending refusal it carries is cleared (R77). -/
def State.limit (s : State) (k : Slot) : State × Answer :=
  (s.setTruck k { s.truck k with refusal := none }, s.limitAnswer k)

/-- The DEMAND answer to the substation of feed `f` (R48). -/
def State.demand (s : State) (f : Feed) : Answer :=
  let x := s.side f
  .demand x.share s.feedMode s.sect x.shed.state x.shed.inForce s.faults s.drawingCount

end Sys2Proof.Machine
end

