-- ==== Sys2Proof/Machine/Feeds.lean ====
section
/-! DEFINITION. The feed monitor (chapter 3): FEED_REPORT, SHED, SHED_RELEASE, their deadlines, and what a commit hands
over (R47, R53). -/

namespace Sys2Proof.Machine

/-! ### FEED_REPORT (R39, R40, R49) -/

/-- The overdraw count after a report taken with breaker CLOSED on a feed in service (R49). -/
def overdrawAfter (x : FeedSide) (margin output : Nat) : Nat :=
  if output > x.share + margin then (if x.feed.overdraw < 3 then x.feed.overdraw + 1 else 3) else 0

/-- The overdraw check (R49), run on the record as it stood before the report. -/
def State.overdrawCheck (s : State) (f : Feed) (b : Breaker) (output : Nat) : State :=
  let x := s.side f
  if b = .closed ∧ x.feed.inService then
    let c := overdrawAfter x s.params.overdrawMargin output
    let s' := s.setSide f { x with feed := { x.feed with overdraw := c } }
    if output > x.share + s.params.overdrawMargin ∧ c = 3 then s'.setFaults (s'.faults.setOverdraw f) else s'
  else s

/-- The report's effect on the record, state and deadlines (R40). -/
def State.takeReport (s : State) (f : Feed) (volts capacity : Nat) (b : Breaker) (output : Nat) : State :=
  let x := s.side f
  let r := { x.feed with
    volts := volts, capacity := capacity, breaker := b, output := output, lastReport := some s.now }
  match b with
  | .closed =>
    s.setSide f { x with feed := { r with
      state := .inService
      lateDeadline := some (after s.now s.params.feedLate)
      outDeadline := some (after s.now s.params.feedOut) } }
  | .opened =>
    let s' := s.setSide f { x with feed := { r with
      state := .out, lateDeadline := none, outDeadline := none, overdraw := 0 } }
    if x.feed.inService then s'.setEvents (s'.events.setFeedOut f) else s'

/-- The rule of FEED_REPORT on the port of feed `f`. -/
def feedReportRule (f : Feed) (ident : Byte) (volts capacity : U16) (breaker : Byte) (output : U16) (s : State) :
    State × Answer :=
  if feedOf ident ≠ some f then (s, .refused .feedReport .wrongPort false)
  else
    let b := breakerOf breaker
    let out := min output.toNat Config.maxFeed
    let s := (s.overdrawCheck f b out).takeReport f (min volts.toNat 3000) (min capacity.toNat Config.maxFeed) b out
    (s, s.demand f)

/-- FEED_REPORT. -/
def execFeedReport (f : Feed) (ident : Byte) (volts capacity : U16) (breaker : Byte) (output : U16) (s : State) :
    Host.Outcome State Fault Refusal :=
  .next (s.request (feedPort f) (feedReportRule f ident volts capacity breaker output))

/-! ### Shedding (R52, R55) -/

/-- The rule of SHED. -/
def shedRule (f : Feed) (capacity : U16) (s : State) : State × Answer :=
  let s := s.setSide f { s.side f with shed :=
    { state := .pending, capacity := min capacity.toNat Config.maxFeed
      deadline := some (after s.now s.params.shedTimeout) } }
  (s, s.demand f)

/-- SHED. -/
def execShed (f : Feed) (capacity : U16) (s : State) : Host.Outcome State Fault Refusal :=
  .next (s.request (feedPort f) (shedRule f capacity))

/-- The rule of SHED_RELEASE. -/
def shedReleaseRule (f : Feed) (s : State) : State × Answer :=
  let s := s.setSide f { s.side f with shed := {} }
  (s, s.demand f)

/-- SHED_RELEASE. -/
def execShedRelease (f : Feed) (s : State) : Host.Outcome State Fault Refusal :=
  .next (s.request (feedPort f) (shedReleaseRule f))

/-! ### Deadlines -/

/-- FEED_LATE_DEADLINE (R41). -/
def execFeedLateDeadline (f : Feed) (s : State) : Host.Outcome State Fault Refusal :=
  .next (
    let x := s.side f
    if due x.feed.lateDeadline s.now ∧ x.feed.state = .inService then
      (s.setSide f { x with feed := { x.feed with state := .late, lateDeadline := none } }).setEvents
        (s.events.setFeedLate f)
    else s)

/-- FEED_OUT_DEADLINE (R42). -/
def execFeedOutDeadline (f : Feed) (s : State) : Host.Outcome State Fault Refusal :=
  .next (
    let x := s.side f
    if due x.feed.outDeadline s.now ∧ x.feed.state = .late then
      (s.setSide f { x with feed := { x.feed with state := .out, outDeadline := none, overdraw := 0 } }).setEvents
        (s.events.setFeedOut f)
    else s)

/-- SHED_DEADLINE (R54). -/
def execShedDeadline (f : Feed) (s : State) : Host.Outcome State Fault Refusal :=
  .next (
    let x := s.side f
    if due x.shed.deadline s.now ∧ x.shed.state = .pending then
      (s.setSide f { x with shed := { x.shed with state := .failed, deadline := none } }).setEvents
        (s.events.setShedFailed f)
    else s)

/-! ### The commit (R47, R53, R134) -/

/-- A feed's share is replaced, and its shed is examined when it is PENDING (R47, R53). -/
def FeedSide.takeShare (x : FeedSide) (share : Nat) : FeedSide :=
  { x with
    share := share
    shed := if x.shed.state = .pending ∧ share ≤ x.shed.capacity then { x.shed with state := .done, deadline := none }
      else x.shed }

/-- Both shares are handed over with the commit time. -/
def State.takeShares (s : State) (shareA shareB : Nat) : State :=
  { s with feedA := s.feedA.takeShare shareA, feedB := s.feedB.takeShare shareB, shareTime := some s.now }

end Sys2Proof.Machine
end

