-- ==== Sys2Proof/Machine/Raise.lean ====
section
/-! DEFINITION. The raise arbiter (chapter 6): RAISE, CANCEL, QUEUE_WAIT_DEADLINE, SPACING_DEADLINE, and what a bar and
a commit do to the queue (R108, R111). -/

namespace Sys2Proof.Machine

/-! ### RAISE (R103 to R105) -/

/-- Checks 2 to 7 of R103 for the truck in slot `k`, the first that fails. -/
def State.raiseRefusal (s : State) (k : Slot) (span : Nat) : Option Reason :=
  if s.sect ≠ .running then some .notRunning
  else if (s.truck k).state ≠ .standby ∧ (s.truck k).state ≠ .queued then some .wrongState
  else if !s.inSection span then some .spanInvalid
  else if s.barredSpan span then some .spanBarred
  else if (s.truck k).holdoff.isSome then some .holdoff
  else if s.occupied span then some .spanOccupied
  else none

/-- Steps 1 and 2 of R104: the request and I_min, clamped. -/
def Truck.takeRequest (t : Truck) (request iMin : Nat) : Truck :=
  let r := min request Config.maxTruck
  { t with request := r, iMin := max 200 (min iMin r) }

/-- A RAISE taken from a STANDBY truck (R104) or from a QUEUED one (R105). -/
def State.acceptRaise (s : State) (k : Slot) (span request iMin : Nat) : State :=
  let t := (s.truck k).takeRequest request iMin
  if (s.truck k).state = .queued then
    { s.setTruck k t with queue := s.queue.map fun e => if e.slot = k then ⟨k, span, true⟩ else e }
  else
    { s.setTruck k { t with
        state := .queued, throughout := false, idle := none
        queueWait := some (after s.now (s.params.queueWait * 1000)) } with
      queue := s.queue ++ [⟨k, span, true⟩] }

/-- The rule of RAISE. -/
def raiseRule (slot : Byte) (fleet : U16) (span : Byte) (request iMin : U16) (s : State) : State × Answer :=
  match s.enrolled slot fleet with
  | none => (s, .refused .raise .notEnrolled false)
  | some k =>
    let s := s.takenFrom k
    match s.raiseRefusal k span.toNat with
    | some r => (s.setSilence k, .refused .raise r false)
    | none => (s.acceptRaise k span.toNat request.toNat iMin.toNat).limit k

/-- RAISE. -/
def execRaise (slot : Byte) (fleet : U16) (span : Byte) (request iMin : U16) (s : State) :
    Host.Outcome State Fault Refusal :=
  .next (s.request .truck (raiseRule slot fleet span request iMin))

/-! ### CANCEL (R106) -/

/-- The cases of R106. -/
def cancelRule (slot : Byte) (fleet : U16) (s : State) : State × Answer :=
  match s.enrolled slot fleet with
  | none => (s, .refused .cancel .notEnrolled false)
  | some k =>
    let s := s.takenFrom k
    match (s.truck k).state with
    | .queued => ((s.unqueue k).enterStandby k none).limit k
    | .standby => s.limit k
    | .raisePending => ((s.removeEntries fun e => e.isTruckOf k).enterStandby k none).limit k
    | .free | .drawing | .lowering | .silent => (s.setSilence k, .refused .cancel .wrongState false)

/-- CANCEL. -/
def execCancel (slot : Byte) (fleet : U16) (s : State) : Host.Outcome State Fault Refusal :=
  .next (s.request .truck (cancelRule slot fleet))

/-! ### Deadlines -/

/-- QUEUE_WAIT_DEADLINE (R107). -/
def execQueueWaitDeadline (k : Slot) (s : State) : Host.Outcome State Fault Refusal :=
  .next (
    if due (s.truck k).queueWait s.now ∧ (s.truck k).state = .queued then (s.unqueue k).enterStandby k none else s)

/-- SPACING_DEADLINE (R110). -/
def execSpacingDeadline (s : State) : Host.Outcome State Fault Refusal :=
  .next (if due s.spacing s.now then { s with spacing := none } else s)

/-! ### A bar (R108) and STOP (R115) -/

/-- A truck taken out of the queue on the part's account enters STANDBY with a pending refusal. -/
def State.expel (s : State) (k : Slot) (r : Reason) : State :=
  let s := s.enterStandby k none
  s.setTruck k { s.truck k with refusal := some r }

/-- The queue entries for a newly barred span are removed (R108). -/
def State.purgeSpan (s : State) (span : Nat) : State :=
  (s.queue.filter fun e => e.span == span).foldl (fun s e => s.expel e.slot .spanBarred)
    { s with queue := s.queue.filter fun e => e.span != span }

/-- What STOP does to the truck in one slot (R115). -/
def State.stopTruck (s : State) (k : Slot) : State :=
  match (s.truck k).state with
  | .queued => s.expel k .notRunning
  | .raisePending | .drawing | .silent => s.lowerOrder k
  | .free | .standby | .lowering => s

/-- STOP empties the queue and acts on every truck (R115). -/
def State.stopTrucks (s : State) : State := allSlots.foldl State.stopTruck { s with queue := [] }

/-! ### A grant at the commit (R111) -/

/-- The conditions under which a grant is applied (R111, R133). The queue entry is unaltered since the snapshot: not
replaced or written anew, and its span has gained no entry, not even one that has left it again (R111, R135; log 19). -/
def State.grantApplies (s : State) (k : Slot) (fleet : Option U16) (span : Nat) : Bool :=
  (s.truck k).state == .queued && (s.truck k).fleet == fleet
    && (match s.queue with
        | [] => false
        | e :: _ => e.slot == k && !e.altered && e.span == span)
    && !s.barredSpan span && !s.occupied span

/-- The changes of R111, steps 1 to 6, made together. -/
def State.applyGrant (s : State) (k : Slot) (span amount : Nat) : State :=
  let e := s.track { kind := .truck k, span := span } 500 s.now
  let s := { s with queue := s.queue.tail, spacing := some (after s.now s.params.raiseSpacing) }
  let s := s.putLine (insertEntry e s.line)
  s.setTruck k { s.truck k with
    state := .raisePending, throughout := false, issued := amount, queueWait := none
    raiseConfirm := some (after s.now s.params.raiseConfirm)
    silence := some (after s.now s.params.silence) }

end Sys2Proof.Machine
end

