-- ==== Sys2Proof/Machine/Allocation.lean ====
section
/-! DEFINITION. The allocation engine (chapter 7): the snapshot of CYCLE_DEADLINE, the computation as a function of the
snapshot alone (R17, R123), and its COMMIT. -/

namespace Sys2Proof.Machine

/-! ### The snapshot (R124) -/

/-- The entry record of a line-order entry (R124). -/
def State.snapEntry (s : State) (e : Entry) : SnapEntry where
  kind := match e.kind with
    | .truck k =>
      let t := s.truck k
      .truck k t.fleet t.state t.request t.iMin t.exposure
    | .phantom n c _ _ => .phantom n c
  span := e.span
  conf := e.conf
  modelSpan := s.modelSpanOf e

/-- The queue head record (R124). -/
def State.snapHead (s : State) : Option SnapHead :=
  s.queue.head?.map fun e =>
    let t := s.truck e.slot
    { slot := e.slot, fleet := t.fleet, span := e.span, request := t.request, iMin := t.iMin
      spanOpen := !(s.spanState e.span != .opened), spanOccupied := s.occupied e.span }

/-- The snapshot taken at a cycle expiry (R124). -/
def State.snapshot (s : State) : Snapshot where
  time := s.now
  net := s.derived
  vMin := s.params.vMin
  mode := s.feedMode
  vFeed := s.vFeed
  capA := s.capacityInUse .a
  capB := s.capacityInUse .b
  overflow := s.faults.phantomOverflow
  entries := s.line.map s.snapEntry
  gate := s.gateOpen
  head := s.snapHead

/-- The marks that a commit's checks "since the snapshot" read are set afresh at the snapshot (R111, R132; log 19). -/
def State.markSnapshot (s : State) : State :=
  allSlots.foldl
    (fun s k => s.setTruck k { s.truck k with throughout := (s.truck k).state = .drawing })
    { s with queue := s.queue.map fun e => { e with altered := false } }

/-- CYCLE_DEADLINE: the next expiry counts from the time at which this one passed, the deadline's own (R122, R155;
log 6). -/
def execCycleDeadline (s : State) : Host.Outcome State Fault Refusal :=
  .next (
    if due s.cycle s.now ∧ s.sect = .running then
      { s.markSnapshot with inFlight := some s.snapshot, cycle := s.cycle.map fun d => after d s.params.cyclePeriod }
    else s)

/-! ### The computation -/

/-- An entry record of a TRUCK that was DRAWING (R125). -/
def SnapEntry.drawing (e : SnapEntry) : Bool :=
  match e.kind with
  | .truck _ _ st _ _ _ => st == .drawing
  | .phantom _ _ => false

def SnapEntry.isTruck (e : SnapEntry) : Bool :=
  match e.kind with
  | .truck _ _ _ _ _ _ => true
  | .phantom _ _ => false

/-- The held charge (R125), 0 for a DRAWING truck. -/
def SnapEntry.held (e : SnapEntry) : Nat :=
  match e.kind with
  | .truck _ _ st _ _ x => if st = .drawing then 0 else x
  | .phantom _ c => c

/-- The entry in an input set with a given charge. -/
def SnapEntry.charged (e : SnapEntry) (c : Nat) : Charged := ⟨e.isTruck, e.modelSpan, c⟩

/-- An input set over the snapshot's figures. -/
def Snapshot.inputSet (x : Snapshot) (es : List Charged) : InputSet where
  mode := x.mode
  vFeed := x.vFeed
  vMin := x.vMin
  capA := x.capA
  capB := x.capB
  net := x.net
  entries := es

/-- The held charges of a list of entry records. -/
def heldCharges (es : List SnapEntry) : List Charged := es.map fun e => e.charged e.held

/-- The held input set (R125). -/
def Snapshot.heldSet (x : Snapshot) : InputSet := x.inputSet (heldCharges x.entries)

/-- The outcome (R126). -/
def Snapshot.outcome (x : Snapshot) : GrantOutcome :=
  if x.overflow then .overflow else if meetsLimits x.heldSet then .met else .breached

/-- The candidate for a DRAWING truck's target (R127). -/
def SnapEntry.candidate (e : SnapEntry) : Candidate :=
  match e.kind with
  | .truck _ _ _ r i _ => ⟨e.modelSpan, r, i, true⟩
  | .phantom _ _ => ⟨e.modelSpan, 0, 200, true⟩

/-- The target pass (R127): the entries head to tail, `before` being the running set of those already taken. For each
entry it gives the held charge, or the target of a DRAWING truck. -/
def Snapshot.targetPass (x : Snapshot) (before : List Charged) : List SnapEntry → List Nat
  | [] => []
  | e :: es =>
    let c := if e.drawing then headroom (x.inputSet (before ++ heldCharges (e :: es))) e.candidate else e.held
    c :: x.targetPass (before ++ [e.charged c]) es

/-- The held charge or target of each entry (R126, R127). -/
def Snapshot.heldOrTargets (x : Snapshot) : List Nat :=
  if x.outcome = .met then x.targetPass [] x.entries else x.entries.map SnapEntry.held

/-- The charge of an entry with held charge or target `c` (R128). -/
def SnapEntry.charge (e : SnapEntry) (c : Nat) : Nat :=
  match e.kind with
  | .truck _ _ st _ _ x => if st = .drawing then max c x else c
  | .phantom _ _ => c

/-- The held charges together with all targets, as an input set (R127). -/
def Snapshot.targetSet (x : Snapshot) : InputSet :=
  x.inputSet (List.zipWith SnapEntry.charged x.entries x.heldOrTargets)

/-- The charges of the charges input set (R128). -/
def Snapshot.charges (x : Snapshot) : List Nat := List.zipWith SnapEntry.charge x.entries x.heldOrTargets

/-- The charges input set (R128). -/
def Snapshot.chargesSet (x : Snapshot) : InputSet :=
  x.inputSet (List.zipWith SnapEntry.charged x.entries x.charges)

/-- The amount of the raise grant; 0 when there is none (R129). -/
def Snapshot.raiseAmount (x : Snapshot) : Nat :=
  match x.head with
  | none => 0
  | some h =>
    if x.outcome = .met ∧ x.gate ∧ h.spanOpen ∧ !h.spanOccupied then
      headroom x.chargesSet ⟨h.span, h.request, h.iMin, false⟩
    else 0

/-- The raise grant: the queue head record with the amount (R129). -/
def Snapshot.grant (x : Snapshot) : Option (SnapHead × Nat) :=
  if x.raiseAmount = 0 then none else x.head.map fun h => (h, x.raiseAmount)

/-- The committed load (R130). -/
def Snapshot.committedLoad (x : Snapshot) : InputSet :=
  let c := x.chargesSet
  match x.grant with
  | none => c
  | some (h, a) => { c with entries := c.entries ++ [⟨true, h.span, a⟩] }

/-- The name of an entry record. -/
def SnapEntry.who (e : SnapEntry) : EntryRef :=
  match e.kind with
  | .truck k _ _ _ _ _ => .truck k
  | .phantom n _ => .phantom n

/-- The trucks whose floors the held input set breaches (R131). -/
def Snapshot.breachedSlots (x : Snapshot) : List Slot :=
  x.entries.filterMap fun e =>
    match e.kind with
    | .truck k _ _ _ _ _ => if meetsFloor x.heldSet e.modelSpan then none else some k
    | .phantom _ _ => none

/-- The entries of the committed grant table (R131). -/
def Snapshot.grantEntries (x : Snapshot) : List GrantEntry :=
  List.zipWith
    (fun e (c : Nat × Nat) =>
      { who := e.who, span := e.span, modelSpan := e.modelSpan, heldOrTarget := c.1, charge := c.2
        estimate := if e.isTruck then estimateAt x.committedLoad e.modelSpan else 0 })
    x.entries (List.zip x.heldOrTargets x.charges)

/-- The committed grant table of a computation that ends at `now`, its raise grant with its result (R131). -/
def Snapshot.table (x : Snapshot) (now : Time) (applied : Bool) : GrantTable where
  snapTime := some x.time
  commitTime := some now
  outcome := some x.outcome
  breachA := x.outcome = .breached ∧ !meetsCapA x.heldSet
  breachB := x.outcome = .breached ∧ !meetsCapB x.heldSet
  breachSlots := if x.outcome = .breached then x.breachedSlots else []
  mode := x.mode
  vFeed := x.vFeed
  vMin := x.vMin
  capA := x.capA
  capB := x.capB
  entries := x.grantEntries
  grant := x.grant.map fun g => ⟨g.1.slot, g.1.span, g.2, applied⟩
  shareA := (shares x.committedLoad).1
  shareB := (shares x.committedLoad).2

/-! ### The commit (R131 to R134) -/

/-- The result for one truck that was DRAWING at the snapshot (R132). -/
def State.applyTarget (s : State) (k : Slot) (fleet : Option U16) (target : Nat) : State :=
  let t := s.truck k
  if t.fleet = fleet ∧ t.state = .drawing ∧ t.throughout then
    if target = 0 then s.lowerOrder k
    else (s.setTruck k { t with issued := target }).evaluateCut k
  else s

/-- The result of one entry: handed on when it is a truck that was DRAWING at the snapshot. -/
def State.applyResult (s : State) (r : SnapEntry × Nat) : State :=
  match r.1.kind with
  | .truck k fleet st _ _ _ => if st = .drawing then s.applyTarget k fleet r.2 else s
  | .phantom _ _ => s

/-- The commit of a computation on snapshot `x` (R131): the results, the grant, the table, the shares. -/
def State.commitOf (s : State) (x : Snapshot) : State :=
  let s := (List.zip x.entries x.heldOrTargets).foldl State.applyResult { s with inFlight := none }
  let applied := match x.grant with
    | none => false
    | some (h, _) => s.grantApplies h.slot h.fleet h.span
  let s := match x.grant with
    | none => s
    | some (h, a) => if applied then s.applyGrant h.slot h.span a else s
  ({ s with grants := x.table s.now applied }).takeShares (shares x.committedLoad).1 (shares x.committedLoad).2

/-- COMMIT: a computation that ends outside RUNNING commits nothing (R123). -/
def execCommit (s : State) : Host.Outcome State Fault Refusal :=
  .next (
    match s.inFlight with
    | none => s
    | some x => if s.sect = .running then s.commitOf x else { s with inFlight := none })

end Sys2Proof.Machine
end

