-- ==== Sys2Proof/Machine/ConfigTable.lean ====
section
/-! DEFINITION. The configuration table and its store (chapter 1): SET_SPAN, SET_SPAN_COUNT, SET_PARAM, STORE,
STORE_WRITE_END, and the load at a cold reset. -/

namespace Sys2Proof.Machine

/-! ### Geometry writes (R2 to R4) -/

/-- The store is WRITING. -/
def State.storeBusy (s : State) : Bool := s.store != .idle

/-- Checks 2 to 4 of R2, the first that fails. -/
def State.geometryRefusal (s : State) : Option Reason :=
  if s.storeBusy then some .storeBusy
  else if s.sect = .running then some .wrongState
  else if !s.line.isEmpty then some .lineOccupied
  else none

/-- The rule of SET_SPAN (R2, R3). -/
def setSpanRule (index : Byte) (length : U16) (resistance : Byte) (flag : Bool) (s : State) : State × Answer :=
  if index.toNat > 15 then (s, .refused .setSpan .spanInvalid flag)
  else
    match s.geometryRefusal with
    | some r => (s, .refused .setSpan r flag)
    | none =>
      let l := clamp 50 800 length.toNat
      let r := clamp 1 255 resistance.toNat
      ({ s with spans := s.spans.setIfInBounds index.toNat ⟨l, r, true⟩ }.evaluateValidity,
        .ack .setSpan flag (index :: bytes2 l ++ [byte r]))

/-- SET_SPAN. -/
def execSetSpan (index : Byte) (length : U16) (resistance : Byte) (s : State) : Host.Outcome State Fault Refusal :=
  .next (s.request .dispatch fun s => s.abandoning (setSpanRule index length resistance))

/-- The rule of SET_SPAN_COUNT (R2, R4). -/
def setSpanCountRule (count : Byte) (flag : Bool) (s : State) : State × Answer :=
  match s.geometryRefusal with
  | some r => (s, .refused .setSpanCount r flag)
  | none =>
    let n := clamp 4 16 count.toNat
    ({ s with spanCount := some n }.evaluateValidity, .ack .setSpanCount flag [byte n])

/-- SET_SPAN_COUNT. -/
def execSetSpanCount (count : Byte) (s : State) : Host.Outcome State Fault Refusal :=
  .next (s.request .dispatch fun s => s.abandoning (setSpanCountRule count))

/-! ### Parameters (R7 to R9) -/

/-- The ranges of R7, by parameter number; the lower bound of parameter 14 is that of R8 step 3. -/
def paramRange (p : Params) : Nat → Option (Nat × Nat)
  | 1 => some (1000, 2800)
  | 2 => some (0, 6000)
  | 3 => some (50, 500)
  | 4 => some (200, 5000)
  | 5 => some (1000, 10000)
  | 6 => some (1000, 10000)
  | 7 => some (300, 3000)
  | 8 => some (500, 5000)
  | 9 => some (1000, 30000)
  | 10 => some (10, 600)
  | 11 => some (5, 300)
  | 12 => some (0, 120)
  | 13 => some (200, 2000)
  | 14 => some (max 500 (p.feedLate + 100), 10000)
  | 15 => some (50, 2000)
  | 16 => some (1000, 20000)
  | 17 => some (200, 3000)
  | 18 => some (30, 900)
  | 19 => some (5, 250)
  | 20 => some (5, 200)
  | 21 => some (5, 120)
  | 22 => some (300, 3000)
  | 23 => some (500, 10000)
  | _ => none

/-- The value of a parameter by its number. -/
def Params.get (p : Params) : Nat → Nat
  | 1 => p.vMin | 2 => p.fallbackCapacity | 3 => p.cyclePeriod | 4 => p.raiseSpacing | 5 => p.raiseConfirm
  | 6 => p.lowerConfirm | 7 => p.cutAcknowledge | 8 => p.silence | 9 => p.silentHold | 10 => p.standbyIdle
  | 11 => p.queueWait | 12 => p.holdoff | 13 => p.feedLate | 14 => p.feedOut | 15 => p.overdrawMargin
  | 16 => p.shedTimeout | 17 => p.phantomCurrent | 18 => p.phantomHold | 19 => p.blanking | 20 => p.minPass
  | 21 => p.overlong | 22 => p.shoeLength | 23 => p.staleMargin
  | _ => 0

/-- The parameters with one replaced, by its number. -/
def Params.put (p : Params) (number v : Nat) : Params :=
  match number with
  | 1 => { p with vMin := v }
  | 2 => { p with fallbackCapacity := v }
  | 3 => { p with cyclePeriod := v }
  | 4 => { p with raiseSpacing := v }
  | 5 => { p with raiseConfirm := v }
  | 6 => { p with lowerConfirm := v }
  | 7 => { p with cutAcknowledge := v }
  | 8 => { p with silence := v }
  | 9 => { p with silentHold := v }
  | 10 => { p with standbyIdle := v }
  | 11 => { p with queueWait := v }
  | 12 => { p with holdoff := v }
  | 13 => { p with feedLate := v }
  | 14 => { p with feedOut := v }
  | 15 => { p with overdrawMargin := v }
  | 16 => { p with shedTimeout := v }
  | 17 => { p with phantomCurrent := v }
  | 18 => { p with phantomHold := v }
  | 19 => { p with blanking := v }
  | 20 => { p with minPass := v }
  | 21 => { p with overlong := v }
  | 22 => { p with shoeLength := v }
  | 23 => { p with staleMargin := v }
  | _ => p

/-- The value taken for a parameter: clamped to its range, and for parameters 3 and 17 then rounded down to the step
(R8 step 3). -/
def takenValue (number lo hi v : Nat) : Nat :=
  let c := clamp lo hi v
  match number with
  | 3 => c / 10 * 10
  | 17 => c / 50 * 50
  | _ => c

/-- R9: a new feed late threshold raises the feed out threshold to at least late plus 100 ms. -/
def Params.raiseFeedOut (p : Params) : Params := { p with feedOut := max p.feedOut (p.feedLate + 100) }

/-- The rule of SET_PARAM (R8, R9). The parameter report in which R9 says a raised feed out threshold shows is defined
nowhere in chapter 10, so no query carries a parameter. DESIGN CHOICE, log 30. -/
def setParamRule (number : Byte) (value : U16) (flag : Bool) (s : State) : State × Answer :=
  match paramRange s.params number.toNat with
  | none => (s, .refused .setParam .noSuchEntry flag)
  | some (lo, hi) =>
    if s.storeBusy then (s, .refused .setParam .storeBusy flag)
    else
      let v := takenValue number.toNat lo hi value.toNat
      let p := s.params.put number.toNat v
      ({ s with params := if number = 13 then p.raiseFeedOut else p }, .ack .setParam flag (number :: bytes2 v))

/-- SET_PARAM. -/
def execSetParam (number : Byte) (value : U16) (s : State) : Host.Outcome State Fault Refusal :=
  .next (s.request .dispatch fun s => s.abandoning (setParamRule number value))

/-! ### The configuration store (R11 to R15) -/

/-- The bytes of a stored copy under its check value: R11 names the items and no layout; they stand here in R11's order,
two-byte items high byte first (log 12). -/
def copyBytes (spanCount : Option Nat) (spans : Vector SpanRec 16) (p : Params) : List Byte :=
  byte (spanCount.getD 0)
    :: (spans.toList.map fun r => bytes2 r.length ++ [byte r.resistance, if r.written then 1 else 0]).flatten
    ++ (((List.range 23).map fun i => bytes2 (p.get (i + 1))).flatten)

/-- The check value over the rest of the copy. -/
def copyCheck (spanCount : Option Nat) (spans : Vector SpanRec 16) (p : Params) : U16 :=
  checkValue (copyBytes spanCount spans p)

/-- The stored copy passes its check (R11). -/
def StoredCopy.passes (c : StoredCopy) : Bool := c.check == copyCheck c.spanCount c.spans c.params

/-- The copy marked as failing its check (R12, R13): its check value is made to differ from the value computed (log 12). -/
def StoredCopy.marked (c : StoredCopy) : StoredCopy :=
  { c with check := ~~~ copyCheck c.spanCount c.spans c.params }

/-- The working configuration as a stored copy with its check value. -/
def State.workingCopy (s : State) : StoredCopy where
  spanCount := s.spanCount
  spans := s.spans
  params := s.params
  check := copyCheck s.spanCount s.spans s.params

/-- The rule of STORE (R12). -/
def storeRule (flag : Bool) (s : State) : State × Answer :=
  if s.storeBusy then (s, .refused .store .storeBusy flag)
  else if !s.valid then (s, .refused .store .wrongState flag)
  else ({ s with stored := s.stored.marked, store := .writing s.now }, .ack .store flag [])

/-- STORE. -/
def execStore (s : State) : Host.Outcome State Fault Refusal :=
  .next (s.request .dispatch fun s => s.abandoning storeRule)

/-- STORE_WRITE_END (R13): `agrees` says whether the copy read back equals the working configuration (log 13). -/
def execStoreWriteEnd (agrees : Bool) (s : State) : Host.Outcome State Fault Refusal :=
  .next (
    match s.store with
    | .idle => s
    | .writing _ =>
      if agrees then
        { s with stored := s.workingCopy, store := .idle, events := { s.events with storeDone := true } }
      else
        { s with stored := s.stored.marked, store := .idle, events := { s.events with storeFailed := true } })

/-- The load at the end of a cold reset: the stored values, or the emptied configuration (R15). -/
def State.loadStored (s : State) : State :=
  if s.stored.passes then
    { s with spanCount := s.stored.spanCount, spans := s.stored.spans, params := s.stored.params }
  else { s with spanCount := none, spans := Vector.replicate 16 {}, params := {} }

end Sys2Proof.Machine
end

