-- ==== Sys2Proof/Machine/Isolation.lean ====
section
/-! DEFINITION. Isolation control (chapter 8): ISO_FROM, ISO_TO, ISO_APPLY, RESTORE. -/

namespace Sys2Proof.Machine

/-- The rule of ISO_FROM (R139, R142). -/
def isoFromRule (a : Byte) (s : State) : State × Answer :=
  if s.inSection a.toNat then
    ({ s with isoSeq := .fromSet a.toNat }, .ack .isoFrom s.isoBusy [a])
  else ({ s with isoSeq := .none }, .refused .isoFrom .spanInvalid s.isoBusy)

/-- ISO_FROM. -/
def execIsoFrom (a : Byte) (s : State) : Host.Outcome State Fault Refusal :=
  .next (s.request .dispatch (isoFromRule a))

/-- The rule of ISO_TO (R140, R142). -/
def isoToRule (b : Byte) (s : State) : State × Answer :=
  if !s.inSection b.toNat then ({ s with isoSeq := .none }, .refused .isoTo .spanInvalid s.isoBusy)
  else
    match s.isoSeq with
    | .fromSet a =>
      if b.toNat < a then ({ s with isoSeq := .none }, .refused .isoTo .sequence s.isoBusy)
      else ({ s with isoSeq := .toSet a b.toNat }, .ack .isoTo false [byte a, b])
    | _ => ({ s with isoSeq := .none }, .refused .isoTo .sequence s.isoBusy)

/-- ISO_TO. -/
def execIsoTo (b : Byte) (s : State) : Host.Outcome State Fault Refusal :=
  .next (s.request .dispatch (isoToRule b))

/-- The spans from `a` to `b`. -/
def spanRange (a b : Nat) : List Nat := (List.range (b + 1)).filter fun i => a ≤ i

/-- The bar applied to span `i` (R141). -/
def State.barSpan (s : State) (i : Nat) : State :=
  if s.spanState i = .opened then s.setSpanState i (if s.occupied i then .pendingBar else .barred) else s

/-- The bar applied to a range: the states are written, then the raise arbiter is told each span newly barred, from the
lowest upward (R141, R108). -/
def State.applyBar (s : State) (a b : Nat) : State :=
  let fresh := (spanRange a b).filter fun i => s.spanState i = .opened
  fresh.foldl State.purgeSpan ((spanRange a b).foldl State.barSpan s)

/-- The rule of ISO_APPLY (R141, R142). -/
def isoApplyRule (s : State) : State × Answer :=
  match s.isoSeq with
  | .toSet a b =>
    let s' := s.applyBar a b
    ({ s' with isoSeq := .none },
      .ack .isoApply false (byte a :: byte b :: (spanRange a b).map fun i => byte (s'.spanState i).code))
  | _ => ({ s with isoSeq := .none }, .refused .isoApply .sequence s.isoBusy)

/-- ISO_APPLY. -/
def execIsoApply (s : State) : Host.Outcome State Fault Refusal := .next (s.request .dispatch isoApplyRule)

/-- The rule of RESTORE (R144). -/
def restoreRule (a b : Byte) (flag : Bool) (s : State) : State × Answer :=
  if s.inSection a.toNat ∧ s.inSection b.toNat ∧ a.toNat ≤ b.toNat then
    ((spanRange a.toNat b.toNat).foldl (fun s i => s.setSpanState i .opened) s, .ack .restore flag [a, b])
  else (s, .refused .restore .spanInvalid flag)

/-- RESTORE. -/
def execRestore (a b : Byte) (s : State) : Host.Outcome State Fault Refusal :=
  .next (s.request .dispatch fun s => s.abandoning (restoreRule a b))

/-- Once a warm reset ends, each span that is PENDING_BAR becomes BARRED (R138). -/
def State.settleBars (s : State) : State :=
  (List.range 16).foldl
    (fun s i => if s.spanState i = .pendingBar then s.setSpanState i .barred else s) s

end Sys2Proof.Machine
end

