-- ==== Sys2Proof/Machine/Reports.lean ====
section
/-! DEFINITION. The six queries (R57, R79, R101, R121, R137, R147, R153, R164), their parts (R165) and the layout of each
part (R166). -/

namespace Sys2Proof.Machine

/-- The answer to a query for a part: the part's items, or REFUSED NO_SUCH_ENTRY where the part is not defined or its
item does not stand (R164). -/
def reportOf (kind : ReqKind) (part : Byte) : Option (List Item) → Answer
  | none => .refused kind .noSuchEntry false
  | some items => .report kind part.toNat (contents items)

/-! ### QUERY_SECTION (R153) -/

/-- The two counters of a port, check-error first. -/
def PortState.counters (x : PortState) : List Item := [item1 x.checkErrors, item1 x.unknownKinds]

def State.sectionItems (s : State) : List Item :=
  [item1 s.sect.code, item4 s.now.toNat, itemYes s.healthy] ++ s.healthyConditions.map itemYes
    ++ [item1 s.faults.code, item1 s.phantomCount, item1 s.store.code, item2 s.events.code]
    ++ s.truckPort.counters ++ s.feedPortA.counters ++ s.feedPortB.counters ++ s.dispatchPort.counters

/-- The rule of QUERY_SECTION: the event flags carried are cleared; any part but 0 is refused and clears none. -/
def querySectionRule (part : Byte) (s : State) : State × Answer :=
  if part = 0 then (s.setEvents {}, reportOf .querySection part (some s.sectionItems))
  else (s, reportOf .querySection part none)

/-- QUERY_SECTION. -/
def execQuerySection (part : Byte) (s : State) : Host.Outcome State Fault Refusal :=
  .next (s.request .dispatch (querySectionRule part))

/-! ### QUERY_TRUCKS (R79, R121) -/

def State.arbiterItems (s : State) : List Item :=
  [item1 s.queue.length] ++ (s.queue.map fun e => [item1 (e.slot.val + 1), item1 e.span]).flatten
    ++ [itemYes s.gateOpen] ++ s.gateConditions.map itemYes ++ [itemTime s.spacing]

def State.truckItems (s : State) (k : Slot) : List Item :=
  let t := s.truck k
  [itemOpt 2 (t.fleet.map fun f => bytes2 f.toNat), item1 t.state.code, item2 t.request, item2 t.iMin, item2 t.issued,
   item2 t.inForce, item1 t.panto.code, item2 t.measured, item2 t.exposure,
   item1 (if t.state.inLine then (s.spanOfTruck k).getD 0xFF else 0xFF), item1 (reasonCode t.refusal)]

def State.truckTimes (s : State) (k : Slot) : List Item :=
  let t := s.truck k
  [t.lastFrame, t.idle, t.holdoff, t.raiseConfirm, t.lowerConfirm, t.cutAck, t.silence, t.silentHold, t.queueWait].map
    itemTime

/-- The parts of the truck report. -/
def State.trucksPart (s : State) (n : Nat) : Option (List Item) :=
  if n = 0 then some s.arbiterItems
  else if h : n ≤ 12 then some (s.truckItems ⟨(n - 1) % 12, by omega⟩)
  else if h : n ≤ 24 then some (s.truckTimes ⟨(n - 13) % 12, by omega⟩)
  else none

/-- QUERY_TRUCKS. -/
def execQueryTrucks (part : Byte) (s : State) : Host.Outcome State Fault Refusal :=
  .next (s.request .dispatch fun s => (s, reportOf .queryTrucks part (s.trucksPart part.toNat)))

/-! ### QUERY_LINE (R101) -/

def itemSpeed (o : Option Nat) : Item := itemOpt 2 (o.map bytes2)

def itemInterval (o : Option Nat) : Item := itemOpt 4 (o.map bytes4)

def itemOrigin (o : Option (Slot × U16)) : Item :=
  itemOpt 3 (o.map fun x => byte (x.1.val + 1) :: bytes2 x.2.toNat)

def State.entryItems (s : State) (e : Entry) : List Item :=
  let common := fun (kind slot : Nat) =>
    [item1 kind, item1 slot, item1 e.span, item1 e.conf.code, itemSpeed e.speed, itemInterval e.stale,
     itemTime e.nextJoint, itemTime e.lost]
  match e.kind with
  | .truck k =>
    common 0 (k.val + 1) ++ [item1 0, item2 0, item4 0, itemOrigin none, item1 (s.modelSpanOf e)]
  | .phantom n c x o =>
    common 1 0 ++ [item1 (n.val + 1), item2 c, item4 x.toNat, itemOrigin o, item1 (s.modelSpanOf e)]

def channelItems (c : Channel) : List Item :=
  [item1 c.state.code, itemYes c.spent, itemTime c.rise, itemTime c.lastFall, itemTime c.blanking, itemTime c.overlong]

/-- The parts of the line report. -/
def State.linePart (s : State) (n : Nat) : Option (List Item) :=
  if n = 0 then some [item1 s.line.length, item1 (phantomsIn s.line)]
  else if n ≤ 16 then s.line[n - 1]?.map s.entryItems
  else if h : n ≤ 33 then some (channelItems (s.channel ⟨(n - 17) % 17, by omega⟩))
  else none

/-- QUERY_LINE. -/
def execQueryLine (part : Byte) (s : State) : Host.Outcome State Fault Refusal :=
  .next (s.request .dispatch fun s => (s, reportOf .queryLine part (s.linePart part.toNat)))

/-! ### QUERY_FEEDS (R57) -/

def State.feedItems (s : State) (f : Feed) : List Item :=
  let x := s.side f
  [item1 x.feed.state.code, item2 x.feed.volts, item2 x.feed.capacity, item1 x.feed.breaker.code, item2 x.feed.output,
   itemTime x.feed.lastReport, itemTime x.feed.lateDeadline, itemTime x.feed.outDeadline, item1 x.feed.overdraw,
   item1 x.shed.state.code, item2 x.shed.capacity, itemTime x.shed.deadline, item2 (s.capacityInUse f), item2 x.share]

/-- The parts of the feed report. -/
def State.feedsPart (s : State) : Nat → Option (List Item)
  | 0 => some [item1 s.feedMode.code, item2 s.vFeed, itemTime s.shareTime]
  | 1 => some (s.feedItems .a)
  | 2 => some (s.feedItems .b)
  | _ => none

/-- QUERY_FEEDS. -/
def execQueryFeeds (part : Byte) (s : State) : Host.Outcome State Fault Refusal :=
  .next (s.request .dispatch fun s => (s, reportOf .queryFeeds part (s.feedsPart part.toNat)))

/-! ### QUERY_SPANS (R147) -/

/-- P(s) or Q(s) of a span of the section, 0xFFFF otherwise (R165). -/
def resistanceOr (net : Option Net) (i : Nat) (f : Net → Nat) : Nat :=
  match net with
  | none => 0xFFFF
  | some net => if i < net.n then f net else 0xFFFF

def isoItems : IsoSeq → List Item
  | .none => [item1 0, item1 0, item1 0]
  | .fromSet a => [item1 1, item1 a, item1 0]
  | .toSet a b => [item1 2, item1 a, item1 b]

/-- The parts of the span report. -/
def State.spansPart (s : State) (n : Nat) : Option (List Item) :=
  if n ≤ 15 then
    let r := s.spanRec n
    some [item2 r.length, item1 r.resistance, itemYes r.written, item1 (s.spanState n).code,
      item2 (resistanceOr s.derived n fun net => net.pAt n), item2 (resistanceOr s.derived n fun net => net.qAt n)]
  else if n = 16 then
    some ([item1 (s.n.getD 0), item2 ((s.derived.map Net.t).getD 0)] ++ isoItems s.isoSeq)
  else none

/-- QUERY_SPANS. -/
def execQuerySpans (part : Byte) (s : State) : Host.Outcome State Fault Refusal :=
  .next (s.request .dispatch fun s => (s, reportOf .querySpans part (s.spansPart part.toNat)))

/-! ### QUERY_GRANTS (R137) -/

/-- A set of truck slots: bit n - 1 stands for slot n (R166). -/
def slotSet (ks : List Slot) : Nat := (allSlots.map fun k => bit (k ∈ ks) k.val).sum

def itemGrant (g : Option GrantRec) : Item :=
  itemOpt 5 (g.map fun g =>
    [byte (g.slot.val + 1), byte g.span] ++ bytes2 g.amount ++ [byte (grantResultCode g.applied)])

def tableItems (t : GrantTable) : List Item :=
  [itemOpt 1 (t.outcome.map fun o => [byte o.code]), itemTime t.snapTime, itemTime t.commitTime, item1 t.mode.code,
   item2 t.vFeed, item2 t.vMin, item2 t.capA, item2 t.capB, item2 t.shareA, item2 t.shareB, item1 t.entries.length,
   itemGrant t.grant, itemYes t.breachA, itemYes t.breachB, item2 (slotSet t.breachSlots)]

def grantEntryItems (e : GrantEntry) : List Item :=
  (match e.who with
    | .truck k => [item1 0, item1 (k.val + 1)]
    | .phantom n => [item1 1, item1 (n.val + 1)])
    ++ [item1 e.span, item1 e.modelSpan, item2 e.heldOrTarget, item2 e.charge, item2 e.estimate]

/-- The parts of the grant report. -/
def State.grantsPart (s : State) (n : Nat) : Option (List Item) :=
  if n = 0 then some (tableItems s.grants)
  else if n ≤ 16 then s.grants.entries[n - 1]?.map grantEntryItems
  else if n = 17 then some [itemTime s.cycle, itemTime (s.inFlight.map Snapshot.time)]
  else none

/-- QUERY_GRANTS. -/
def execQueryGrants (part : Byte) (s : State) : Host.Outcome State Fault Refusal :=
  .next (s.request .dispatch fun s => (s, reportOf .queryGrants part (s.grantsPart part.toNat)))

end Sys2Proof.Machine
end

