-- ==== Sys2Proof/Machine/Tracker.lean ====
section
/-! DEFINITION. The line tracker (chapter 5): detector channels, passes and their attribution, phantoms, and the deadlines
of entries; with CLEAR_PHANTOM. -/

namespace Sys2Proof.Machine

/-! ### Passes (R90 to R97) -/

/-- The speed of a pass in mm/s (R91). -/
def passSpeed (shoe width : Nat) (overlong : Bool) : Nat :=
  if overlong then 500 else clamp 500 15000 (shoe * 1000 / width)

/-- The first entry on span `i`, and the line order with it replaced, or removed when `f` gives none (R95). -/
def updateForemost (i : Nat) (f : Entry → Option Entry) : List Entry → List Entry
  | [] => []
  | e :: l =>
    if e.span = i then
      match f e with
      | none => l
      | some e' => e' :: l
    else e :: updateForemost i f l

/-- A phantom is created from an unmatched pass on span `i` with speed `v` (R82); isolation control is told when it was
placed (R97 item 3), and so is the raise queue (R111). -/
def State.createPhantom (s : State) (i v : Nat) : State :=
  if phantomsIn s.line < 4 then
    let kind : EntryKind :=
      .phantom (lowestFreePhantom s.line) s.params.phantomCurrent (after s.now (s.params.phantomHold * 1000)) none
    let e := s.track { kind := kind, span := i, speed := some v } v s.now
    ((s.putLine (insertEntry e s.line)).spanGained i).tellEntered i kind
  else s.overflowed

/-- An unmatched pass at joint `j` of a section of `n` spans (R97). -/
def State.unmatched (s : State) (n j v : Nat) : State :=
  (s.setFaults { s.faults with unauthorisedContact := true }).createPhantom (if j = n then n - 1 else j) v

/-- A pass at joint `n`, the end of the wire, attributed to entry `e` (R95, R96 item 1, R117). -/
def State.leaveWire (s : State) (e : Entry) : State :=
  let s := (s.putLine (updateForemost e.span (fun _ => none) s.line)).tellEmptied e.span
  match e.kind with
  | .truck k => s.enterStandby k none
  | .phantom _ _ _ _ => s

/-- A pass at a joint below the end of the wire attributed to entry `e`, which moves up one span (R95, R96 items 2 to
4, R111, R112). -/
def State.moveUp (s : State) (e : Entry) (v : Nat) : State :=
  let j := e.span + 1
  let s := s.putLine (updateForemost e.span
    (fun e => some (s.track { e with span := j, speed := some v } v s.now)) s.line)
  let s : State := match e.kind with
    | .truck k => if (s.truck k).state = .raisePending then s.enterDrawing k else s
    | .phantom _ _ _ _ => s
  ((s.tellEmptied e.span).spanGained j).tellEntered j e.kind

/-- A pass record handed to the line tracker (R90): discarded, attributed (R95) or unmatched (R97). -/
def State.takePass (s : State) (j width : Nat) (overlong : Bool) : State :=
  match s.n with
  | none => s
  | some n =>
    if j > n then s
    else
      let v := passSpeed s.params.shoeLength width overlong
      match (if j = 0 then none else s.line.find? fun e => e.span == j - 1) with
      | none => s.unmatched n j v
      | some e => if j = n then s.leaveWire e else s.moveUp e v

/-! ### Channels (R85 to R89) -/

/-- A rise at the channel of joint `j` (R86, R87). -/
def Channel.risen (c : Channel) (now : Time) (overlong : Nat) : Channel :=
  match c.state with
  | .idle =>
    { c with state := .present, spent := false, rise := some now, overlong := some (after now (overlong * 1000)) }
  | .trailing => { c with state := .present, blanking := none }
  | .present => c

/-- DETECTOR_RISE: while a reset is in progress the channels see no edge (R156, R157). -/
def execDetectorRise (j : Joint) (s : State) : Host.Outcome State Fault Refusal :=
  .next (
    let s' := s.setDet j true
    if s.inReset then s' else s'.setChannel j ((s.channel j).risen s.now s.params.overlong))

/-- DETECTOR_FALL (R87). -/
def execDetectorFall (j : Joint) (s : State) : Host.Outcome State Fault Refusal :=
  .next (
    let s' := s.setDet j false
    let c := s.channel j
    if s.inReset ∨ c.state ≠ .present then s'
    else s'.setChannel j { c with
      state := .trailing, lastFall := some s.now, blanking := some (after s.now s.params.blanking) })

/-- The ms between two recorded times; 0 when one is absent. -/
def width (rise fall : Option Time) : Nat :=
  match rise, fall with
  | some a, some b => elapsed a b
  | _, _ => 0

/-- BLANKING_DEADLINE (R88). -/
def execBlankingDeadline (j : Joint) (s : State) : Host.Outcome State Fault Refusal :=
  .next (
    let c := s.channel j
    if due c.blanking s.now ∧ c.state = .trailing then
      let w := width c.rise c.lastFall
      if c.spent then
        s.setChannel j { c with state := .idle, spent := false, rise := none, blanking := none }
      else
        let s' := s.setChannel j
          { c with state := .idle, spent := false, rise := none, blanking := none, overlong := none }
        if w < s.params.minPass then s' else s'.takePass j.val w false
    else s)

/-- OVERLONG_DEADLINE (R89). -/
def execOverlongDeadline (j : Joint) (s : State) : Host.Outcome State Fault Refusal :=
  .next (
    let c := s.channel j
    if due c.overlong s.now then
      let w := width c.rise c.overlong
      match c.state with
      | .present => (s.setChannel j { c with spent := true, overlong := none }).takePass j.val w true
      | .trailing =>
        (s.setChannel j { c with state := .idle, spent := false, rise := none, blanking := none, overlong := none }).takePass
          j.val w true
      | .idle => s
    else s)

/-- Each channel whose input is active when a reset ends has seen a rise at that moment (R85). -/
def State.inputsRise (s : State) : State :=
  allJoints.foldl
    (fun s j => if s.det[j] then s.setChannel j ((s.channel j).risen s.now s.params.overlong) else s) s

/-! ### Deadlines of entries (R93, R94, R98) -/

/-- The first entry named by `r`. -/
def State.entry (s : State) (r : EntryRef) : Option Entry := s.line.find? fun e => e.isRef r

/-- The entry named by `r` is changed. -/
def State.updateEntry (s : State) (r : EntryRef) (f : Entry → Entry) : State :=
  s.putLine (s.line.map fun e => if e.isRef r then f e else e)

/-- A KNOWN entry whose next-joint deadline passes becomes STALE. The lost deadline counts from the time at which the
next-joint deadline passed, which is its own: a deadline passes when the count reaches it (R93, R155; log 6). -/
def Entry.becomeStale (e : Entry) : Entry :=
  { e with conf := .stale, nextJoint := none, lost := e.nextJoint.map fun d => after d (e.stale.getD 0) }

/-- NEXT_JOINT_DEADLINE (R93). -/
def execNextJointDeadline (r : EntryRef) (s : State) : Host.Outcome State Fault Refusal :=
  .next (
    match s.entry r with
    | none => s
    | some e =>
      if due e.nextJoint s.now ∧ e.conf = .known then s.updateEntry r Entry.becomeStale else s)

/-- LOST_DEADLINE (R94). -/
def execLostDeadline (r : EntryRef) (s : State) : Host.Outcome State Fault Refusal :=
  .next (
    match s.entry r with
    | none => s
    | some e =>
      if due e.lost s.now ∧ e.conf = .stale then
        let s' := s.updateEntry r fun e => { e with lost := none }
        match r with
        | .truck k => (s'.setEvents { s.events with positionLost := true }).lowerOrder k
        | .phantom _ => s'
      else s)

/-- The phantom's expiry, if the entry is a phantom. -/
def Entry.expiry? (e : Entry) : Option Time :=
  match e.kind with
  | .truck _ => none
  | .phantom _ _ x _ => some x

/-- PHANTOM_EXPIRY (R98). -/
def execPhantomExpiry (n : PhantomNo) (s : State) : Host.Outcome State Fault Refusal :=
  .next (
    match s.entry (.phantom n) with
    | none => s
    | some e => if due e.expiry? s.now then s.removeEntries fun e => e.isPhantomNo n else s)

/-! ### CLEAR_PHANTOM (R99) -/

/-- The cases of R99. -/
def clearPhantomRule (number : Byte) (flag : Bool) (s : State) : State × Answer :=
  if number = 0 then
    if s.line.any Entry.isPhantom then
      (s.removeEntries Entry.isPhantom, .ack .clearPhantom flag [number])
    else (s, .refused .clearPhantom .noSuchEntry flag)
  else
    match phantomNoOf number with
    | none => (s, .refused .clearPhantom .noSuchEntry flag)
    | some n =>
      if s.line.any fun e => e.isPhantomNo n then
        (s.removeEntries fun e => e.isPhantomNo n, .ack .clearPhantom flag [number])
      else (s, .refused .clearPhantom .noSuchEntry flag)

/-- CLEAR_PHANTOM. -/
def execClearPhantom (number : Byte) (s : State) : Host.Outcome State Fault Refusal :=
  .next (s.request .dispatch fun s => s.abandoning (clearPhantomRule number))

end Sys2Proof.Machine
end

