-- ==== Sys2Proof/Machine/Section.lean ====
section
/-! DEFINITION. Section control (chapter 9): RUN, STOP, CLEAR_FAULTS, CLEAR_COUNTERS, WARM_RESET, and the resets. -/

namespace Sys2Proof.Machine

/-- The rule of RUN (R149). -/
def runRule (flag : Bool) (s : State) : State × Answer :=
  match s.sect with
  | .stopped =>
    ({ s with sect := .running, cycle := some (after s.now s.params.cyclePeriod) },
      .ack .run flag [byte SectionState.running.code])
  | .running => (s, .ack .run flag [byte SectionState.running.code])
  | .unconfigured => (s, .refused .run .wrongState flag)

/-- RUN. -/
def execRun (s : State) : Host.Outcome State Fault Refusal :=
  .next (s.request .dispatch fun s => s.abandoning runRule)

/-- The rule of STOP (R150, R123, R115). -/
def stopRule (flag : Bool) (s : State) : State × Answer :=
  match s.sect with
  | .running =>
    ({ s with sect := .stopped, cycle := none, inFlight := none }.stopTrucks,
      .ack .stop flag [byte SectionState.stopped.code])
  | st => (s, .ack .stop flag [byte st.code])

/-- STOP. -/
def execStop (s : State) : Host.Outcome State Fault Refusal :=
  .next (s.request .dispatch fun s => s.abandoning stopRule)

/-- The rule of CLEAR_FAULTS (R152). -/
def clearFaultsRule (flag : Bool) (s : State) : State × Answer :=
  let f := s.faults.cleared s.phantomCount
  (s.setFaults f, .ack .clearFaults flag [byte f.code])

/-- CLEAR_FAULTS. -/
def execClearFaults (s : State) : Host.Outcome State Fault Refusal :=
  .next (s.request .dispatch fun s => s.abandoning clearFaultsRule)

/-- Both counters of a port set to 0. -/
def PortState.clearCounters (x : PortState) : PortState := { x with checkErrors := 0, unknownKinds := 0 }

/-- The eight link error counters set to 0 (R161). -/
def State.clearAllCounters (s : State) : State :=
  { s with
    truckPort := s.truckPort.clearCounters, feedPortA := s.feedPortA.clearCounters
    feedPortB := s.feedPortB.clearCounters, dispatchPort := s.dispatchPort.clearCounters }

/-- CLEAR_COUNTERS (R161). -/
def execClearCounters (s : State) : Host.Outcome State Fault Refusal :=
  .next (s.request .dispatch fun s => s.abandoning fun flag s =>
    (s.clearAllCounters, .ack .clearCounters flag []))

/-- WARM_RESET: answered ACK; the reset begins when the answer has been sent (R157). -/
def execWarmReset (s : State) : Host.Outcome State Fault Refusal :=
  .next (s.request .dispatch fun s => s.abandoning fun flag s =>
    ({ s with warmAsked := true }, .ack .warmReset flag []))

/-! ### Resets (R156, R157) -/

/-- The port when a reset begins: a frame in progress is discarded, an answer being sent stops, the counters are not
changed, and the receiver will wait for a start byte (R158); a request lost while the port sent is a frame in progress
as well (log 31). -/
def PortState.quiet (x : PortState) : PortState := { x with rx := .hunt, tx := none, lost := [], lostRx := .hunt }

/-- What both resets clear (the table of R157): all dynamic state, the flags and the computation in flight. -/
def State.clearDynamic (s : State) : State :=
  { s with
    faults := {}, events := {}, phantomCount := 0, warmAsked := false
    feedA := {}, feedB := {}, shareTime := none
    trucks := Vector.replicate 12 {}
    line := [], channels := Vector.replicate 17 {}
    queue := [], spacing := none
    cycle := none, inFlight := none, grants := {}
    isoSeq := .none
    truckPort := s.truckPort.quiet, feedPortA := s.feedPortA.quiet
    feedPortB := s.feedPortB.quiet, dispatchPort := s.dispatchPort.quiet }

/-- The section state that a reset leaves (R15, R16, R148). -/
def State.settleSection (s : State) : State :=
  { s with derived := s.computeNet, sect := if s.valid then .stopped else .unconfigured }

/-- COLD_RESET: power-up, or COLD_RST_N going active (R156); a store write stops where it stands, the copy staying
marked as STORE left it (R14), and the counters are set to 0 (R161). -/
def execColdReset (s : State) : Host.Outcome State Fault Refusal :=
  .next { s.clearDynamic.clearAllCounters with now := 0, store := .idle, coldReset := true, warmHold := false }

/-- The end of a cold reset (R15, R138, R85). -/
def State.endCold (s : State) : State :=
  ({ s.loadStored with
    coldReset := false, store := .idle, spanStates := Vector.replicate 16 .opened }.settleSection).inputsRise

/-- COLD_RESET_END: where WARM_RST_N is still held active, a warm reset is taken at once (R157; log 17). -/
def execColdResetEnd (s : State) : Host.Outcome State Fault Refusal :=
  .next (
    if s.coldReset then
      if s.warmPin then { s.endCold.clearDynamic with warmHold := true } else s.endCold
    else s)

/-- WARM_RST_N_ASSERT: WARM_RST_N goes active; it is ignored while a cold reset is in progress (R156, R157), and the
pin cannot go active again while it is held (log 5). -/
def execWarmRstNAssert (s : State) : Host.Outcome State Fault Refusal :=
  .next (
    if s.coldReset then { s with warmPin := true }
    else if s.warmHold then s
    else { s.clearDynamic with warmPin := true, warmHold := true })

/-- The end of a warm reset (R16, R138, R85). -/
def State.endWarm (s : State) : State := ({ s with warmHold := false }.settleSection.settleBars).inputsRise

/-- WARM_RESET_END: WARM_RST_N returns inactive (R157). -/
def execWarmResetEnd (s : State) : Host.Outcome State Fault Refusal :=
  .next (if s.warmHold then { s with warmPin := false }.endWarm else { s with warmPin := false })

/-- WARM_RESET_AFTER_ACK: the ACK of a WARM_RESET has been sent; the warm reset begins and ends at once (R157). -/
def execWarmResetAfterAck (s : State) : Host.Outcome State Fault Refusal :=
  .next (if s.warmAsked then s.clearDynamic.endWarm else s)

end Sys2Proof.Machine
end

