-- ==== Sys2Proof/Machine/Trucks.lean ====
section
/-! DEFINITION. Enrolment and leaving, status reports, silence and the truck's own deadlines (chapter 4, and the deadlines
of chapter 6 that belong to the truck table): JOIN, STATUS, LEAVE, EVICT, IDLE_DEADLINE, HOLDOFF_EXPIRY,
RAISE_CONFIRM_DEADLINE, LOWER_CONFIRM_DEADLINE, CUT_ACKNOWLEDGE_DEADLINE, SILENCE_DEADLINE, SILENT_HOLD_DEADLINE. -/

namespace Sys2Proof.Machine

/-! ### JOIN (R61) -/

/-- The slot that holds a fleet number. -/
def State.slotOfFleet (s : State) (fleet : U16) : Option Slot :=
  allSlots.find? fun k => (s.truck k).state != .free && (s.truck k).fleet == some fleet

/-- The lowest-numbered FREE slot. -/
def State.lowestFreeSlot (s : State) : Option Slot := allSlots.find? fun k => (s.truck k).state == .free

/-- The four cases of R61. -/
def joinRule (fleet : U16) (s : State) : State × Answer :=
  if fleet = 0 then (s, .slot 0 (some .notEnrolled))
  else
    match s.slotOfFleet fleet with
    | some k => ((s.takenFrom k).setSilence k, .slot (k.val + 1) none)
    | none =>
      match s.lowestFreeSlot with
      | some k =>
        ((s.setTruck k { fleet := some fleet, lastFrame := some s.now }).enterStandby k none, .slot (k.val + 1) none)
      | none => (s, .slot 0 (some .tableFull))

/-- JOIN. -/
def execJoin (fleet : U16) (s : State) : Host.Outcome State Fault Refusal :=
  .next (s.request .truck (joinRule fleet))

/-! ### STATUS (R66) -/

/-- Step 1: the clamped values and the pantograph are recorded. -/
def State.recordStatus (s : State) (k : Slot) (p : Panto) (inForce measured : Nat) : State :=
  s.setTruck k { s.truck k with
    inForce := min inForce Config.maxTruck, measured := min measured 4095, panto := p }

/-- Step 2, for DOWN: every phantom with the truck's origin tag is removed (R100). -/
def State.downReport (s : State) (k : Slot) (fleet : U16) : State := s.removeEntries fun e => e.hasOrigin k fleet

/-- The truck's entry is removed from the line order (R84). -/
def State.removeTruck (s : State) (k : Slot) : State := s.removeEntries fun e => e.isTruckOf k

/-- Step 3: the transition caused by the pantograph (R75, R112, R116, R120). -/
def State.pantoTransition (s : State) (k : Slot) (p : Panto) : State :=
  match (s.truck k).state, p with
  | .silent, .down => (s.removeTruck k).enterStandby k none
  | .silent, .up => if s.sect = .running then s.enterDrawing k else (s.enterDrawing k).lowerOrder k
  | .raisePending, .up => s.enterDrawing k
  | .raisePending, .down => s
  | .drawing, .down => (s.removeTruck k).enterStandby k none
  | .lowering, .down => (s.removeTruck k).enterStandby k s.holdoffTime
  | .drawing, .up | .lowering, .up => s
  | .free, _ | .standby, _ | .queued, _ => s

/-- Step 4: the wanted current (R67). -/
def State.applyWanted (s : State) (k : Slot) (wanted : Nat) : State :=
  let t := s.truck k
  let w := min wanted Config.maxTruck
  match t.state with
  | .raisePending | .drawing =>
    s.setTruck k { t with request := w, iMin := if w < t.iMin then max w 200 else t.iMin }
  | _ => s

/-- The steps of R66. -/
def statusRule (slot : Byte) (fleet : U16) (panto : Byte) (inForce measured wanted : U16) (s : State) :
    State × Answer :=
  match s.enrolled slot fleet with
  | none => (s, .refused .status .notEnrolled false)
  | some k =>
    let p := pantoOf panto
    let s := (s.takenFrom k).recordStatus k p inForce.toNat measured.toNat
    let s := if p = .down then s.downReport k fleet else s
    let s := s.pantoTransition k p
    let s := s.applyWanted k wanted.toNat
    let s := s.evaluateCut k
    (s.setSilence k).limit k

/-- STATUS. -/
def execStatus (slot : Byte) (fleet : U16) (panto : Byte) (inForce measured wanted : U16) (s : State) :
    Host.Outcome State Fault Refusal :=
  .next (s.request .truck (statusRule slot fleet panto inForce measured wanted))

/-! ### LEAVE (R62) and EVICT (R64) -/

/-- The cases of R62. -/
def leaveRule (slot : Byte) (fleet : U16) (s : State) : State × Answer :=
  match s.enrolled slot fleet with
  | none => (s, .refused .leave .notEnrolled false)
  | some k =>
    let s := s.takenFrom k
    match (s.truck k).state with
    | .standby => (s.freeSlot k, .ack .leave false [byte (k.val + 1)])
    | .queued => ((s.unqueue k).freeSlot k, .ack .leave false [byte (k.val + 1)])
    | _ => (s.setSilence k, .refused .leave .wrongState false)

/-- LEAVE. -/
def execLeave (slot : Byte) (fleet : U16) (s : State) : Host.Outcome State Fault Refusal :=
  .next (s.request .truck (leaveRule slot fleet))

/-- The cases of R64. -/
def evictRule (slot : Byte) (flag : Bool) (s : State) : State × Answer :=
  match slotOf slot with
  | none => (s, .refused .evict .noSuchEntry flag)
  | some k =>
    match (s.truck k).state with
    | .free => (s, .refused .evict .noSuchEntry flag)
    | .standby => (s.freeSlot k, .ack .evict flag [byte (k.val + 1)])
    | .queued => ((s.unqueue k).freeSlot k, .ack .evict flag [byte (k.val + 1)])
    | .raisePending | .drawing | .lowering | .silent =>
      ((s.convert k (s.truck k).exposure none).freeSlot k, .ack .evict flag [byte (k.val + 1)])

/-- EVICT. -/
def execEvict (slot : Byte) (s : State) : Host.Outcome State Fault Refusal :=
  .next (s.request .dispatch fun s => s.abandoning (evictRule slot))

/-! ### Deadlines of a truck record

Each takes effect when the deadline is set, the count has reached it, and the truck is in the state its rule names;
otherwise the deadline does not pass and nothing changes (log 5). -/

/-- IDLE_DEADLINE (R63). -/
def execIdleDeadline (k : Slot) (s : State) : Host.Outcome State Fault Refusal :=
  .next (if due (s.truck k).idle s.now ∧ (s.truck k).state = .standby then s.freeSlot k else s)

/-- HOLDOFF_EXPIRY (R119). -/
def execHoldoffExpiry (k : Slot) (s : State) : Host.Outcome State Fault Refusal :=
  .next (if due (s.truck k).holdoff s.now then s.setTruck k { s.truck k with holdoff := none } else s)

/-- The origin tag of a truck: its slot and its fleet number. -/
def State.originOf (s : State) (k : Slot) : Option (Slot × U16) := (s.truck k).fleet.map fun f => (k, f)

/-- RAISE_CONFIRM_DEADLINE (R113). -/
def execRaiseConfirmDeadline (k : Slot) (s : State) : Host.Outcome State Fault Refusal :=
  .next (
    if due (s.truck k).raiseConfirm s.now ∧ (s.truck k).state = .raisePending then
      let s := (s.convert k (s.truck k).exposure (s.originOf k)).enterStandby k s.holdoffTime
      s.setEvents { s.events with raiseTimeout := true }
    else s)

/-- LOWER_CONFIRM_DEADLINE (R118). -/
def execLowerConfirmDeadline (k : Slot) (s : State) : Host.Outcome State Fault Refusal :=
  .next (
    if due (s.truck k).lowerConfirm s.now ∧ (s.truck k).state = .lowering then
      (s.enterSilent k).setEvents { s.events with truckSilent := true }
    else s)

/-- CUT_ACKNOWLEDGE_DEADLINE (R71). -/
def execCutAcknowledgeDeadline (k : Slot) (s : State) : Host.Outcome State Fault Refusal :=
  .next (
    if due (s.truck k).cutAck s.now ∧ (s.truck k).state = .drawing then
      (s.setEvents { s.events with limitNoncompliant := true }).lowerOrder k
    else s)

/-- SILENCE_DEADLINE (R73). -/
def execSilenceDeadline (k : Slot) (s : State) : Host.Outcome State Fault Refusal :=
  .next (
    if due (s.truck k).silence s.now ∧ (s.truck k).state ∈ [.raisePending, .drawing, .lowering] then
      (s.enterSilent k).setEvents { s.events with truckSilent := true }
    else s)

/-- SILENT_HOLD_DEADLINE (R76). -/
def execSilentHoldDeadline (k : Slot) (s : State) : Host.Outcome State Fault Refusal :=
  .next (
    if due (s.truck k).silentHold s.now ∧ (s.truck k).state = .silent then
      let s := (s.convert k (s.truck k).exposure (s.originOf k)).enterStandby k none
      s.setEvents { s.events with truckLost := true }
    else s)

end Sys2Proof.Machine
end

