-- ==== Sys2Proof/Machine/Link.lean ====
section
/-! DEFINITION. The link ports below whole requests (chapter 10): FRAME_START, FRAME_DISCARDED, FRAME_TIMEOUT,
ANSWER_SENT. -/

namespace Sys2Proof.Machine

/-- A counter raised by one; at 15 it stays at 15 (R161). -/
def raised (c : Nat) : Nat := if c < 15 then c + 1 else 15

/-- The frame is discarded and the check-error counter raised; the receiver goes to HUNT (R159, R160). -/
def PortState.discard (x : PortState) : PortState := { x with rx := .hunt, checkErrors := raised x.checkErrors }

/-- The frame is discarded and the unknown-kind counter raised; the receiver goes to HUNT (R160). -/
def PortState.discardKind (x : PortState) : PortState := { x with rx := .hunt, unknownKinds := raised x.unknownKinds }

def State.discardFrame (s : State) (p : Port) : State := s.setPort p (s.port p).discard

def State.discardKind (s : State) (p : Port) : State := s.setPort p (s.port p).discardKind

/-- A request handed to its owning block (R160 step 4), by its own rule. An event command is no request. -/
def State.takeRequest (s : State) : Instr → State
  | .join f => s.request .truck (joinRule f)
  | .status n f u i m w => s.request .truck (statusRule n f u i m w)
  | .raise n f x r i => s.request .truck (raiseRule n f x r i)
  | .cancel n f => s.request .truck (cancelRule n f)
  | .leave n f => s.request .truck (leaveRule n f)
  | .feedReport f i v c b o => s.request (feedPort f) (feedReportRule f i v c b o)
  | .shed f c => s.request (feedPort f) (shedRule f c)
  | .shedRelease f => s.request (feedPort f) (shedReleaseRule f)
  | .setSpan i l r => s.request .dispatch fun s => s.abandoning (setSpanRule i l r)
  | .setSpanCount n => s.request .dispatch fun s => s.abandoning (setSpanCountRule n)
  | .setParam n v => s.request .dispatch fun s => s.abandoning (setParamRule n v)
  | .store => s.request .dispatch fun s => s.abandoning storeRule
  | .run => s.request .dispatch fun s => s.abandoning runRule
  | .stop => s.request .dispatch fun s => s.abandoning stopRule
  | .isoFrom a => s.request .dispatch (isoFromRule a)
  | .isoTo b => s.request .dispatch (isoToRule b)
  | .isoApply => s.request .dispatch isoApplyRule
  | .restore a b => s.request .dispatch fun s => s.abandoning (restoreRule a b)
  | .clearFaults => s.request .dispatch fun s => s.abandoning clearFaultsRule
  | .clearPhantom n => s.request .dispatch fun s => s.abandoning (clearPhantomRule n)
  | .evict n => s.request .dispatch fun s => s.abandoning (evictRule n)
  | .clearCounters =>
    s.request .dispatch fun s => s.abandoning fun flag s => (s.clearAllCounters, .ack .clearCounters flag [])
  | .warmReset =>
    s.request .dispatch fun s => s.abandoning fun flag s => ({ s with warmAsked := true }, .ack .warmReset flag [])
  | .querySection n => s.request .dispatch (querySectionRule n)
  | .queryTrucks n => s.request .dispatch fun s => (s, reportOf .queryTrucks n (s.trucksPart n.toNat))
  | .queryLine n => s.request .dispatch fun s => (s, reportOf .queryLine n (s.linePart n.toNat))
  | .queryFeeds n => s.request .dispatch fun s => (s, reportOf .queryFeeds n (s.feedsPart n.toNat))
  | .querySpans n => s.request .dispatch fun s => (s, reportOf .querySpans n (s.spansPart n.toNat))
  | .queryGrants n => s.request .dispatch fun s => (s, reportOf .queryGrants n (s.grantsPart n.toNat))
  | .frameDiscarded _ _ | .frameTimeout _ | .coldReset | .coldResetEnd | .warmRstNAssert | .warmResetEnd
  | .warmResetAfterAck | .storeWriteEnd _ | .detectorRise _ | .detectorFall _ | .blankingDeadline _
  | .overlongDeadline _ | .feedLateDeadline _ | .feedOutDeadline _ | .shedDeadline _ | .idleDeadline _
  | .holdoffExpiry _ | .raiseConfirmDeadline _ | .lowerConfirmDeadline _ | .cutAcknowledgeDeadline _
  | .silenceDeadline _ | .silentHoldDeadline _ | .queueWaitDeadline _ | .spacingDeadline | .nextJointDeadline _
  | .lostDeadline _ | .phantomExpiry _ | .cycleDeadline | .commit | .frameStart _ _ | .answerSent _ => s

/-- A complete frame is examined: discarded with its counter raised, or handed on (R160). -/
def State.completeFrame (s : State) (p : Port) (kind : Byte) (payload : List Byte) (check : U16) : State :=
  match examine p kind payload check with
  | .badCheck => s.discardFrame p
  | .unknownKind => s.discardKind p
  | .badLength => s.discardFrame p
  | .taken i => (s.setPort p { s.port p with rx := .hunt }).takeRequest i

/-- A byte with its stop bit reaches a receiver (R159). -/
def State.takeByte (s : State) (p : Port) (b : Byte) : State :=
  let x := s.port p
  match x.rx with
  | .hunt => if b = 0xA5 then s.setPort p { x with rx := .kind s.now } else s
  | .kind t => s.setPort p { x with rx := .length t b }
  | .length t k =>
    if b.toNat ≤ 40 then s.setPort p { x with rx := .body t k b.toNat [] } else s.discardFrame p
  | .body t k n held =>
    let held := held ++ [b]
    if held.length < n + 2 then s.setPort p { x with rx := .body t k n held }
    else s.completeFrame p k (held.take n) (word (held.getD n 0) (held.getD (n + 1) 0))

/-- Where a lost byte leaves the lost bytes in their frame, by the table of R159: a start byte begins a frame, and the
bytes of its envelope follow; the frame ends with its last byte, or breaks off (log 31). -/
def Rx.skip (r : Rx) (now : Time) (b : RxByte) : Rx :=
  if b.stopBit then
    match r with
    | .hunt => if b.value = 0xA5 then .kind now else .hunt
    | .kind t => .length t b.value
    | .length t k => if b.value.toNat ≤ 40 then .body t k b.value.toNat [] else .hunt
    | .body t k n held => if held.length + 1 < n + 2 then .body t k n (held ++ [b.value]) else .hunt
  else .hunt

/-- A byte lost while the port sends (R158): with the start byte of a frame, a request is lost (log 31). -/
def PortState.loseByte (x : PortState) (now : Time) (b : RxByte) : PortState :=
  let y := { x with lostRx := x.lostRx.skip now b }
  if x.lostRx = .hunt ∧ y.lostRx ≠ .hunt then y.lose now else y

/-- FRAME_START: a byte received on port `p` (R159): 0xA5 in HUNT starts a frame, and the bytes that follow go through
the same receiver (log 8). A byte without its stop bit is ignored in HUNT and discards a frame in progress. A byte that
comes while the port sends is lost (R158). -/
def execFrameStart (p : Port) (b : RxByte) (s : State) : Host.Outcome State Fault Refusal :=
  .next (
    if s.hears p then
      if b.stopBit then s.takeByte p b.value
      else if (s.port p).rx = .hunt then s else s.discardFrame p
    else if s.loses p then s.setPort p ((s.port p).loseByte s.now b)
    else s)

/-- FRAME_DISCARDED (R159, R160): a complete frame that fails the examination, or a frame broken off. A frame that
passes is not discarded (log 9). -/
def execFrameDiscarded (p : Port) (what : Discard) (s : State) : Host.Outcome State Fault Refusal :=
  .next (
    if s.hears p then
      match what with
      | .complete kind payload check =>
        match examine p kind payload check with
        | .badCheck => s.discardFrame p
        | .unknownKind => s.discardKind p
        | .badLength => s.discardFrame p
        | .taken _ => s
      | .lengthByte value => if value.toNat > 40 then s.discardFrame p else s
      | .missingStop => if (s.port p).rx = .hunt then s else s.discardFrame p
    else s)

/-- The frame start time of a frame in progress. -/
def Rx.start : Rx → Option Time
  | .hunt => none
  | .kind t => some t
  | .length t _ => some t
  | .body t _ _ _ => some t

/-- A frame in progress has run for 50 ms (R159). -/
def Rx.timedOut (r : Rx) (now : Time) : Bool :=
  match r.start with
  | none => false
  | some t => elapsed t now ≥ Config.frameLimit

/-- The oldest request lost while the port sent has run for 50 ms (R158, R159). -/
def PortState.lostOut (x : PortState) (now : Time) : Bool :=
  match x.lost with
  | [] => false
  | t :: _ => elapsed t now ≥ Config.frameLimit

/-- A frame on the port has run out of time: the one in progress, or a request lost while the port sent (R158, R159). -/
def PortState.frameDue (x : PortState) (now : Time) : Bool := x.rx.timedOut now || x.lostOut now

/-- The oldest lost request has run out of time: the check-error counter is raised; the receiver, which took none of its
bytes, is not moved (R158, R159; log 31). -/
def PortState.countLost (x : PortState) : PortState :=
  { x with lost := x.lost.tail, checkErrors := raised x.checkErrors }

/-- FRAME_TIMEOUT (R158, R159): one frame that has run out of time is discarded and counted. -/
def execFrameTimeout (p : Port) (s : State) : Host.Outcome State Fault Refusal :=
  .next (
    if (s.port p).rx.timedOut s.now then s.discardFrame p
    else if (s.port p).lostOut s.now then s.setPort p (s.port p).countLost
    else s)

/-- ANSWER_SENT: the driver-enable line is released and the receiver turned back on, in HUNT; no further byte is lost
(R158). -/
def execAnswerSent (p : Port) (s : State) : Host.Outcome State Fault Refusal :=
  .next (s.setPort p { s.port p with tx := none, lostRx := .hunt })

end Sys2Proof.Machine
end

