-- ==== Sys2Proof/Machine/Clock.lean ====
section
/-! DEFINITION. The tick: what step does on an empty queue (log 2). The events that are still due at the count are put in
the queue, in an order the spec leaves open (log 3); when none is, the time base rises by one and the events that are then
due are put in the queue. -/

namespace Sys2Proof.Machine

/-! ### The events that are due -/

def dueWhen (b : Bool) (i : Instr) : List Instr := if b then [i] else []

def State.dueChannel (s : State) (j : Joint) : List Instr :=
  let c := s.channel j
  dueWhen (due c.blanking s.now && c.state == .trailing) (.blankingDeadline j)
    ++ dueWhen (due c.overlong s.now && c.state != .idle) (.overlongDeadline j)

def State.dueFeed (s : State) (f : Feed) : List Instr :=
  let x := s.side f
  dueWhen (due x.feed.lateDeadline s.now && x.feed.state == .inService) (.feedLateDeadline f)
    ++ dueWhen (due x.feed.outDeadline s.now && x.feed.state == .late) (.feedOutDeadline f)
    ++ dueWhen (due x.shed.deadline s.now && x.shed.state == .pending) (.shedDeadline f)

def State.dueTruck (s : State) (k : Slot) : List Instr :=
  let t := s.truck k
  dueWhen (due t.idle s.now && t.state == .standby) (.idleDeadline k)
    ++ dueWhen (due t.holdoff s.now) (.holdoffExpiry k)
    ++ dueWhen (due t.raiseConfirm s.now && t.state == .raisePending) (.raiseConfirmDeadline k)
    ++ dueWhen (due t.lowerConfirm s.now && t.state == .lowering) (.lowerConfirmDeadline k)
    ++ dueWhen (due t.cutAck s.now && t.state == .drawing) (.cutAcknowledgeDeadline k)
    ++ dueWhen (due t.silence s.now && t.state != .silent && t.state.inLine) (.silenceDeadline k)
    ++ dueWhen (due t.silentHold s.now && t.state == .silent) (.silentHoldDeadline k)
    ++ dueWhen (due t.queueWait s.now && t.state == .queued) (.queueWaitDeadline k)

/-- The name of an entry. -/
def Entry.ref (e : Entry) : EntryRef :=
  match e.kind with
  | .truck k => .truck k
  | .phantom n _ _ _ => .phantom n

def State.dueEntry (s : State) (e : Entry) : List Instr :=
  dueWhen (due e.nextJoint s.now && e.conf == .known) (.nextJointDeadline e.ref)
    ++ dueWhen (due e.lost s.now && e.conf == .stale) (.lostDeadline e.ref)
    ++ match e.kind with
      | .truck _ => []
      | .phantom n _ x _ => dueWhen (reached x s.now) (.phantomExpiry n)

/-- The ms a frame of `n` bytes takes at 57,600 bit/s with 10 bits to the byte is n * 10,000 / 57,600 (R158): its last
stop bit falls within the ms counts of that figure rounded down and rounded up. -/
def Sending.ends (x : Sending) (now : Time) (early : Bool) : Bool :=
  let ms10 := x.answer.frame.length * 10000
  elapsed x.since now * 57600 ≥ ms10 || (early && elapsed x.since now ≥ ms10 / 57600)

def State.duePort (s : State) (p : Port) : List Instr :=
  dueWhen ((s.port p).frameDue s.now) (.frameTimeout p)
    ++ match (s.port p).tx with
      | none => []
      | some x => dueWhen (x.ends s.now (Config.answerEnds s.choice p)) (.answerSent p)

/-- A computation in flight ends 40 ms after its snapshot at the latest (R123). -/
def State.dueCommit (s : State) : List Instr :=
  match s.inFlight with
  | none => []
  | some x => dueWhen (elapsed x.time s.now ≥ Config.commitLimit || Config.commitEnds s.choice) .commit

/-- A store write ends 400 ms after its STORE at the latest (R13). -/
def State.dueStore (s : State) : List Instr :=
  match s.store with
  | .idle => []
  | .writing t =>
    dueWhen (elapsed t s.now ≥ Config.storeLimit || Config.storeEnds s.choice)
      (.storeWriteEnd (Config.storeAgrees s.choice))

/-- A requested warm reset begins when its ACK has been sent, in the millisecond in which the ACK ends (R157). -/
def State.dueWarm (s : State) : List Instr :=
  dueWhen (s.warmAsked && match s.dispatchPort.tx with
    | none => true
    | some x => x.ends s.now (Config.answerEnds s.choice .dispatch)) .warmResetAfterAck

/-- The events due at the count as it stands. -/
def State.dueEvents (s : State) : List Instr :=
  s.dueWarm ++ (allPorts.map s.duePort).flatten ++ (allJoints.map s.dueChannel).flatten
    ++ (allFeeds.map s.dueFeed).flatten ++ (allSlots.map s.dueTruck).flatten
    ++ dueWhen (due s.spacing s.now) .spacingDeadline
    ++ (s.line.map s.dueEntry).flatten
    ++ dueWhen (due s.cycle s.now && s.sect == .running) .cycleDeadline
    ++ s.dueCommit ++ s.dueStore

/-! ### Their order -/

/-- An event put among others at a place of the free value's choosing. -/
def insertAny (n : Nat) (i : Instr) : List Instr → List Instr
  | [] => [i]
  | l => l.insertIdx (n % (l.length + 1)) i

/-- The events in an order of the free value's choosing (log 3). -/
def anyOrder (choice : Nat) : List Instr → List Instr
  | [] => []
  | i :: is => insertAny (Config.pick choice is.length) i (anyOrder choice is)

/-- The count rises by one, and the events then due are queued (R155). -/
def State.advance (s : State) : State :=
  let s := { s with now := s.now + 1, choice := s.choice + 1 }
  { s with pending := anyOrder s.choice s.dueEvents }

/-- The tick. While a cold reset is in progress the count stands at 0 (R155). The count does not rise past an event that
is due and has not been taken: a deadline whose entry was renamed by a conversion in the same millisecond passes in that
millisecond, under the entry's new name (R83, R93, R94). -/
def State.tick (s : State) : State :=
  if s.coldReset then s
  else
    match s.dueEvents with
    | [] => s.advance
    | is => { s with choice := s.choice + 1, pending := anyOrder (s.choice + 1) is }

end Sys2Proof.Machine
end

