-- ==== Sys2Proof/Machine/Dispatch.lean ====
section
/-! DEFINITION. One arm per command: each calls its meaning. -/

namespace Sys2Proof.Machine

def exec (i : Instr) (s : State) : Host.Outcome State Fault Refusal :=
  match i with
  | .join fleet => Sys2Proof.Machine.execJoin fleet s
  | .status slot fleet panto inForce measured wanted => Sys2Proof.Machine.execStatus slot fleet panto inForce measured wanted s
  | .raise slot fleet span request iMin => Sys2Proof.Machine.execRaise slot fleet span request iMin s
  | .cancel slot fleet => Sys2Proof.Machine.execCancel slot fleet s
  | .leave slot fleet => Sys2Proof.Machine.execLeave slot fleet s
  | .feedReport port ident volts capacity breaker output => Sys2Proof.Machine.execFeedReport port ident volts capacity breaker output s
  | .shed port capacity => Sys2Proof.Machine.execShed port capacity s
  | .shedRelease port => Sys2Proof.Machine.execShedRelease port s
  | .setSpan index length resistance => Sys2Proof.Machine.execSetSpan index length resistance s
  | .setSpanCount count => Sys2Proof.Machine.execSetSpanCount count s
  | .setParam number value => Sys2Proof.Machine.execSetParam number value s
  | .store => Sys2Proof.Machine.execStore s
  | .run => Sys2Proof.Machine.execRun s
  | .stop => Sys2Proof.Machine.execStop s
  | .isoFrom a => Sys2Proof.Machine.execIsoFrom a s
  | .isoTo b => Sys2Proof.Machine.execIsoTo b s
  | .isoApply => Sys2Proof.Machine.execIsoApply s
  | .restore a b => Sys2Proof.Machine.execRestore a b s
  | .clearFaults => Sys2Proof.Machine.execClearFaults s
  | .clearPhantom number => Sys2Proof.Machine.execClearPhantom number s
  | .evict slot => Sys2Proof.Machine.execEvict slot s
  | .clearCounters => Sys2Proof.Machine.execClearCounters s
  | .warmReset => Sys2Proof.Machine.execWarmReset s
  | .querySection part => Sys2Proof.Machine.execQuerySection part s
  | .queryTrucks part => Sys2Proof.Machine.execQueryTrucks part s
  | .queryLine part => Sys2Proof.Machine.execQueryLine part s
  | .queryFeeds part => Sys2Proof.Machine.execQueryFeeds part s
  | .querySpans part => Sys2Proof.Machine.execQuerySpans part s
  | .queryGrants part => Sys2Proof.Machine.execQueryGrants part s
  | .frameDiscarded port what => Sys2Proof.Machine.execFrameDiscarded port what s
  | .frameTimeout port => Sys2Proof.Machine.execFrameTimeout port s
  | .coldReset => Sys2Proof.Machine.execColdReset s
  | .coldResetEnd => Sys2Proof.Machine.execColdResetEnd s
  | .warmRstNAssert => Sys2Proof.Machine.execWarmRstNAssert s
  | .warmResetEnd => Sys2Proof.Machine.execWarmResetEnd s
  | .warmResetAfterAck => Sys2Proof.Machine.execWarmResetAfterAck s
  | .storeWriteEnd agrees => Sys2Proof.Machine.execStoreWriteEnd agrees s
  | .detectorRise joint => Sys2Proof.Machine.execDetectorRise joint s
  | .detectorFall joint => Sys2Proof.Machine.execDetectorFall joint s
  | .blankingDeadline joint => Sys2Proof.Machine.execBlankingDeadline joint s
  | .overlongDeadline joint => Sys2Proof.Machine.execOverlongDeadline joint s
  | .feedLateDeadline feed => Sys2Proof.Machine.execFeedLateDeadline feed s
  | .feedOutDeadline feed => Sys2Proof.Machine.execFeedOutDeadline feed s
  | .shedDeadline feed => Sys2Proof.Machine.execShedDeadline feed s
  | .idleDeadline slot => Sys2Proof.Machine.execIdleDeadline slot s
  | .holdoffExpiry slot => Sys2Proof.Machine.execHoldoffExpiry slot s
  | .raiseConfirmDeadline slot => Sys2Proof.Machine.execRaiseConfirmDeadline slot s
  | .lowerConfirmDeadline slot => Sys2Proof.Machine.execLowerConfirmDeadline slot s
  | .cutAcknowledgeDeadline slot => Sys2Proof.Machine.execCutAcknowledgeDeadline slot s
  | .silenceDeadline slot => Sys2Proof.Machine.execSilenceDeadline slot s
  | .silentHoldDeadline slot => Sys2Proof.Machine.execSilentHoldDeadline slot s
  | .queueWaitDeadline slot => Sys2Proof.Machine.execQueueWaitDeadline slot s
  | .spacingDeadline => Sys2Proof.Machine.execSpacingDeadline s
  | .nextJointDeadline entry => Sys2Proof.Machine.execNextJointDeadline entry s
  | .lostDeadline entry => Sys2Proof.Machine.execLostDeadline entry s
  | .phantomExpiry number => Sys2Proof.Machine.execPhantomExpiry number s
  | .cycleDeadline => Sys2Proof.Machine.execCycleDeadline s
  | .commit => Sys2Proof.Machine.execCommit s
  | .frameStart port byte => Sys2Proof.Machine.execFrameStart port byte s
  | .answerSent port => Sys2Proof.Machine.execAnswerSent port s

end Sys2Proof.Machine
end

