-- ==== Sys2Proof/Safety.lean ====
section
/-! DEFINITION. What the part promises of every state it comes to, as predicates of the state: the ranges, exclusions and
agreements that the spec's rules state, each named for the rule it follows. -/

namespace Sys2Proof.Machine

/-! ### Ranges -/

/-- Every link error counter lies between 0 and 15 (R161). -/
def State.CountersBounded (s : State) : Prop :=
  ∀ p : Port, (s.port p).checkErrors ≤ 15 ∧ (s.port p).unknownKinds ≤ 15

/-- Every parameter lies in its range and on its step, and the feed out threshold is at least the feed late threshold
plus 100 ms (R7, R8, R9). -/
def Params.InRange (p : Params) : Prop :=
  (1000 ≤ p.vMin ∧ p.vMin ≤ 2800) ∧ p.fallbackCapacity ≤ 6000
    ∧ (50 ≤ p.cyclePeriod ∧ p.cyclePeriod ≤ 500 ∧ p.cyclePeriod % 10 = 0)
    ∧ (200 ≤ p.raiseSpacing ∧ p.raiseSpacing ≤ 5000) ∧ (1000 ≤ p.raiseConfirm ∧ p.raiseConfirm ≤ 10000)
    ∧ (1000 ≤ p.lowerConfirm ∧ p.lowerConfirm ≤ 10000) ∧ (300 ≤ p.cutAcknowledge ∧ p.cutAcknowledge ≤ 3000)
    ∧ (500 ≤ p.silence ∧ p.silence ≤ 5000) ∧ (1000 ≤ p.silentHold ∧ p.silentHold ≤ 30000)
    ∧ (10 ≤ p.standbyIdle ∧ p.standbyIdle ≤ 600) ∧ (5 ≤ p.queueWait ∧ p.queueWait ≤ 300) ∧ p.holdoff ≤ 120
    ∧ (200 ≤ p.feedLate ∧ p.feedLate ≤ 2000)
    ∧ (500 ≤ p.feedOut ∧ p.feedLate + 100 ≤ p.feedOut ∧ p.feedOut ≤ 10000)
    ∧ (50 ≤ p.overdrawMargin ∧ p.overdrawMargin ≤ 2000) ∧ (1000 ≤ p.shedTimeout ∧ p.shedTimeout ≤ 20000)
    ∧ (200 ≤ p.phantomCurrent ∧ p.phantomCurrent ≤ 3000 ∧ p.phantomCurrent % 50 = 0)
    ∧ (30 ≤ p.phantomHold ∧ p.phantomHold ≤ 900) ∧ (5 ≤ p.blanking ∧ p.blanking ≤ 250)
    ∧ (5 ≤ p.minPass ∧ p.minPass ≤ 200) ∧ (5 ≤ p.overlong ∧ p.overlong ≤ 120)
    ∧ (300 ≤ p.shoeLength ∧ p.shoeLength ≤ 3000) ∧ (500 ≤ p.staleMargin ∧ p.staleMargin ≤ 10000)

/-- A span record: written with values in range, or unwritten and 0 (R1, R3). -/
def SpanRec.InRange (r : SpanRec) : Prop :=
  if r.written then (50 ≤ r.length ∧ r.length ≤ 800) ∧ 1 ≤ r.resistance ∧ r.resistance ≤ 255
  else r.length = 0 ∧ r.resistance = 0

/-- A span count is 4 to 16 (R4). -/
def countInRange (n : Option Nat) : Prop := ∀ m, n = some m → 4 ≤ m ∧ m ≤ 16

/-- The working configuration and the stored copy are in range (R1, R4, R7, R11). -/
def State.ConfigInRange (s : State) : Prop :=
  (s.params.InRange ∧ s.stored.params.InRange) ∧ (countInRange s.spanCount ∧ countInRange s.stored.spanCount)
    ∧ ∀ i : Fin 16, s.spans[i].InRange ∧ s.stored.spans[i].InRange

/-- The current fields of a truck record are in range (R58). -/
def Truck.CurrentsInRange (t : Truck) : Prop :=
  t.request ≤ 3000 ∧ (200 ≤ t.iMin ∧ t.iMin ≤ max 200 t.request) ∧ (t.issued ≤ 3000 ∧ t.issued % 50 = 0)
    ∧ t.inForce ≤ 3000 ∧ t.measured ≤ 4095

/-- The request of an entry record, 0 for a phantom. -/
def SnapEntry.request (e : SnapEntry) : Nat :=
  match e.kind with
  | .truck _ _ _ r _ _ => r
  | .phantom _ _ => 0

/-- The phantom current of an entry, 0 for a truck. -/
def Entry.current (e : Entry) : Nat :=
  match e.kind with
  | .truck _ => 0
  | .phantom _ c _ _ => c

/-- Every current held in a truck record, in a phantom entry and in the requests of a computation in flight is in range
(R58, R80, R124). -/
def State.CurrentsInRange (s : State) : Prop :=
  (∀ k, (s.truck k).CurrentsInRange) ∧ (∀ e ∈ s.line, e.current ≤ 3000)
    ∧ ∀ x, s.inFlight = some x → (∀ e ∈ x.entries, e.request ≤ 3000) ∧ ∀ h, x.head = some h → h.request ≤ 3000

/-! ### Agreements between blocks -/

/-- A slot has exactly one entry in the line order when its truck is in a line-order state and none otherwise (R59), and
exactly one entry in the raise queue when its truck is QUEUED and none otherwise (R102). -/
def State.PlacesAgree (s : State) : Prop :=
  ∀ k, s.line.countP (fun e => e.isTruckOf k) = (if (s.truck k).state.inLine then 1 else 0)
    ∧ s.queue.countP (fun e => e.slot == k) = (if (s.truck k).state = .queued then 1 else 0)

/-- The truck in slot `k` is occupied by fleet number `f`. -/
def State.Holds (s : State) (k : Slot) (f : U16) : Prop := (s.truck k).state ≠ .free ∧ (s.truck k).fleet = some f

/-- A FREE slot has the record of a FREE slot, an occupied one a fleet number above 0, and no two occupied slots the same
fleet number (R58, R61). -/
def State.FleetsDistinct (s : State) : Prop :=
  (∀ k, (s.truck k).state = .free → s.truck k = {})
    ∧ (∀ k, (s.truck k).state ≠ .free → ∃ f, (s.truck k).fleet = some f ∧ f ≠ 0)
    ∧ ∀ j k f, s.Holds j f → s.Holds k f → j = k

/-- At most one truck is RAISE_PENDING (R109), and none while a computation is in flight whose snapshot found the gate
open. -/
def State.OneRaisePending (s : State) : Prop :=
  (∀ j k, (s.truck j).state = .raisePending → (s.truck k).state = .raisePending → j = k)
    ∧ ∀ x, s.inFlight = some x → x.gate = true → ∀ k, (s.truck k).state ≠ .raisePending

/-- The line order: no span above that of an entry ahead, at most four phantoms, no phantom number twice, and the number
of phantoms as section control holds it (R80, R82). -/
def State.LineInOrder (s : State) : Prop :=
  s.line.Pairwise (fun a b => b.span ≤ a.span) ∧ phantomsIn s.line ≤ 4
    ∧ (∀ n, s.line.countP (fun e => e.isPhantomNo n) ≤ 1) ∧ s.phantomCount = phantomsIn s.line

/-- Outside a reset, a PENDING_BAR span has an entry on it (R141, R143). -/
def State.BarsPend (s : State) : Prop :=
  s.inReset = false → ∀ i, s.spanState i = .pendingBar → s.occupied i = true

/-! ### Resets and the section state -/

/-- While a reset is in progress every block holds the values the reset gave it; of the event flags only those of a
store write that ended may be set (R156, R157). A cold reset and a warm one are not in progress together. -/
def State.HeldInReset (s : State) : Prop :=
  (s.inReset = true →
    { s.clearDynamic with events := { storeDone := s.events.storeDone, storeFailed := s.events.storeFailed } } = s)
    ∧ ¬(s.coldReset = true ∧ s.warmHold = true)

/-- A truck has an issued limit other than 0 only in RAISE_PENDING, DRAWING or SILENT (R58, R59, R68, R114). Outside
RUNNING every issued limit is 0 and the raise queue is empty (R148), no computation is in flight and the cycle deadline is
absent (R122, R123). -/
def State.QuietOutsideRunning (s : State) : Prop :=
  (∀ k, (s.truck k).issued ≠ 0 → (s.truck k).state ∈ [.raisePending, .drawing, .silent])
    ∧ (s.sect ≠ .running → (∀ k, (s.truck k).issued = 0) ∧ s.queue = [] ∧ s.inFlight = none ∧ s.cycle = none)

/-- Where an entry stands or a raise is asked for, the configuration is valid and the span is one of the section (R80,
R102, R2). -/
def State.PlacesInSection (s : State) : Prop :=
  (∀ e ∈ s.line, s.inSection e.span = true) ∧ ∀ e ∈ s.queue, s.inSection e.span = true

/-- Outside a cold reset the section is UNCONFIGURED exactly while the configuration is invalid (R5, R148), and the
derived resistances are those of the configuration, absent while it is invalid (R6). -/
def State.ConfigSettled (s : State) : Prop :=
  s.coldReset = false → (s.sect = .unconfigured ↔ s.valid = false) ∧ s.derived = s.computeNet

/-- A range held by the isolation sequence lies in the section (R139 to R142). -/
def State.SequenceInSection (s : State) : Prop :=
  (∀ a, s.isoSeq = .fromSet a → s.inSection a = true)
    ∧ ∀ a b, s.isoSeq = .toSet a b → a ≤ b ∧ s.inSection b = true

/-! ### What the statements take together -/

/-- Every range is kept (R1, R4, R7, R58, R161). -/
def State.RangesHold (s : State) : Prop := s.ConfigInRange ∧ s.CountersBounded ∧ s.CurrentsInRange

/-- The truck table, the line order and the raise queue agree (R58, R59, R61, R80, R102). -/
def State.PlacesHold (s : State) : Prop := s.PlacesAgree ∧ s.FleetsDistinct ∧ s.LineInOrder

/-- The section state, the resets, the section's spans, the bars and the isolation sequence bound what may stand (R2,
R5, R6, R141, R143, R148, R157). -/
def State.SectionHolds (s : State) : Prop :=
  s.HeldInReset ∧ s.QuietOutsideRunning ∧ s.PlacesInSection ∧ s.BarsPend ∧ s.ConfigSettled ∧ s.SequenceInSection

/-! ### Passes -/

/-- Command `c` completes a pass at joint `j` with speed `v`, in mm/s, and leaves the joint's channel as `ch`: a blanking
deadline that ends a pass not yet spent and not narrower than the minimum (R88), or an overlong deadline (R89); the speed
is that of R91. -/
def State.PassCompletes (s : State) (c : Instr) (j : Joint) (v : Nat) (ch : Channel) : Prop :=
  let x := s.channel j
  (c = .blankingDeadline j ∧ due x.blanking s.now = true ∧ x.state = .trailing ∧ x.spent = false
    ∧ (∃ a b, x.rise = some a ∧ x.lastFall = some b ∧ s.params.minPass ≤ (b - a).toNat
      ∧ v = max 500 (min 15000 (s.params.shoeLength * 1000 / (b - a).toNat)))
    ∧ ch = { x with state := .idle, rise := none, blanking := none, overlong := none })
  ∨ (c = .overlongDeadline j ∧ due x.overlong s.now = true ∧ x.state = .present ∧ v = 500
    ∧ ch = { x with spent := true, overlong := none })
  ∨ (c = .overlongDeadline j ∧ due x.overlong s.now = true ∧ x.state = .trailing ∧ v = 500
    ∧ ch = { x with state := .idle, spent := false, rise := none, blanking := none, overlong := none })

/-- The state after bytes `bs`, each with its stop bit, have reached port `p` one by one (R159). -/
def State.receive (s : State) (p : Port) (bs : List Byte) : State :=
  bs.foldl (fun s b => match exec (.frameStart p ⟨b, true⟩) s with
    | .next t => t
    | _ => s) s

/-- The stale interval in ms of an entry with speed `v` on span `i` (R92). -/
def State.staleAfter (s : State) (i v : Nat) : Nat :=
  let transit := ((s.spanRec i).length * 1000000 + v - 1) / v
  (transit * 3 + 1) / 2 + s.params.staleMargin

end Sys2Proof.Machine
end

