-- ==== Sys2Proof/Certificates/Slice0/Obligations.lean ====
section
/-! DEFINITION. The statements for the provers, family by family. A request's statement takes it on a port that hears it;
an event's takes it where its own condition stands; `exec` then answers the next state that is written out. -/

open Sys2Proof Sys2Proof.Machine

/-! ### The step and the queue -/

/-- The command at the front of the queue is taken: step is exec of it on the state with the queue's rest. -/
def Obligations.StepRunsFrontCommand : Prop :=
  ∀ (c : Instr) (rest : List Instr) (s : State), s.pending = c :: rest → step s = exec c { s with pending := rest }

/-- Every command completes, whatever the state, and leaves the queue of commands and the choice counter alone; only
COLD_RESET moves the time base (R155), only the two detector edges move a detector input. -/
def Obligations.EveryCommandCompletes : Prop :=
  ∀ (c : Instr) (s : State), ∃ t, exec c s = .next t ∧ t.pending = s.pending ∧ t.choice = s.choice
    ∧ (c ≠ .coldReset → t.now = s.now)
    ∧ ((∀ j, c ≠ .detectorRise j ∧ c ≠ .detectorFall j) → t.det = s.det)

/-- On an empty queue the events still due are put in the queue, in some order; when none is, the time base rises by one,
from 4,294,967,295 to 0, and the events then due are put in the queue, in some order. While a cold reset is in progress
nothing changes (R155; the tick is the model's own choice, logs 2 and 3). A deadline is due while the count has reached it
and its owner is in the state of its rule; a frame, or a request lost while its port sent, 50 ms after its start (R158,
R159); the cycle deadline in RUNNING (R122); a commit at the latest 40 ms after its snapshot (R123), the end of a store
write at the latest 400 ms after its STORE (R13), the end of an answer in one of the two milliseconds in which its last
stop bit may fall, and a requested warm reset with it (R157, R158; the moment is free, log 4). No other command is. -/
def Obligations.TickRaisesTimeBase : Prop :=
  ∀ s : State,
    (s.pending = [] →
      (s.coldReset = true → step s = .next s) ∧
      (s.coldReset = false → s.dueEvents ≠ [] →
        ∃ l, l.Perm s.dueEvents ∧ step s = .next { s with choice := s.choice + 1, pending := l }) ∧
      (s.coldReset = false → s.dueEvents = [] →
        ∃ l, l.Perm ({ s with now := s.now + 1, choice := s.choice + 1 } : State).dueEvents ∧
          step s = .next { s with now := s.now + 1, choice := s.choice + 1, pending := l })) ∧
    let now := fun c : Instr => c ∈ s.dueEvents
    let passed := fun d : Option Time =>
      ∃ t, d = some t ∧ ¬(1 ≤ (t - s.now).toNat ∧ (t - s.now).toNat ≤ 2147483647)
    let old := fun (since : Time) (ms : Nat) => ms ≤ (s.now - since).toNat
    (∀ j, (now (.blankingDeadline j) ↔ passed (s.channel j).blanking ∧ (s.channel j).state = .trailing) ∧
      (now (.overlongDeadline j) ↔ passed (s.channel j).overlong ∧ (s.channel j).state ≠ .idle)) ∧
    (∀ f, let x := s.side f
      (now (.feedLateDeadline f) ↔ passed x.feed.lateDeadline ∧ x.feed.state = .inService) ∧
      (now (.feedOutDeadline f) ↔ passed x.feed.outDeadline ∧ x.feed.state = .late) ∧
      (now (.shedDeadline f) ↔ passed x.shed.deadline ∧ x.shed.state = .pending)) ∧
    (∀ k, let t := s.truck k
      (now (.idleDeadline k) ↔ passed t.idle ∧ t.state = .standby) ∧
      (now (.holdoffExpiry k) ↔ passed t.holdoff) ∧
      (now (.raiseConfirmDeadline k) ↔ passed t.raiseConfirm ∧ t.state = .raisePending) ∧
      (now (.lowerConfirmDeadline k) ↔ passed t.lowerConfirm ∧ t.state = .lowering) ∧
      (now (.cutAcknowledgeDeadline k) ↔ passed t.cutAck ∧ t.state = .drawing) ∧
      (now (.silenceDeadline k) ↔ passed t.silence ∧ t.state ∈ [.raisePending, .drawing, .lowering]) ∧
      (now (.silentHoldDeadline k) ↔ passed t.silentHold ∧ t.state = .silent) ∧
      (now (.queueWaitDeadline k) ↔ passed t.queueWait ∧ t.state = .queued)) ∧
    (∀ r, (now (.nextJointDeadline r) ↔ ∃ e ∈ s.line, e.isRef r = true ∧ passed e.nextJoint ∧ e.conf = .known) ∧
      (now (.lostDeadline r) ↔ ∃ e ∈ s.line, e.isRef r = true ∧ passed e.lost ∧ e.conf = .stale)) ∧
    (∀ n, now (.phantomExpiry n) ↔
      ∃ e ∈ s.line, ∃ current expiry origin, e.kind = .phantom n current expiry origin ∧ passed (some expiry)) ∧
    (now .spacingDeadline ↔ passed s.spacing) ∧
    (now .cycleDeadline ↔ passed s.cycle ∧ s.sect = .running) ∧
    (∀ p, now (.frameTimeout p) ↔
      (∃ a, (s.port p).rx.start = some a ∧ old a 50) ∨ ∃ a, (s.port p).lost.head? = some a ∧ old a 50) ∧
    ((∀ x, s.inFlight = some x → old x.time 40 → now .commit) ∧ (now .commit → s.inFlight ≠ none)) ∧
    ((∀ t, s.store = .writing t → old t 400 → ∃ agrees, now (.storeWriteEnd agrees)) ∧
      ∀ agrees, now (.storeWriteEnd agrees) → s.store ≠ .idle) ∧
    (∀ p, ((s.port p).tx = none → ¬now (.answerSent p)) ∧
      ∀ x, (s.port p).tx = some x →
        let sent := (s.now - x.since).toNat
        (x.answer.frame.length * 10000 ≤ sent * 57600 → now (.answerSent p)) ∧
          (now (.answerSent p) → x.answer.frame.length * 10000 / 57600 ≤ sent)) ∧
    ((now .warmResetAfterAck → s.warmAsked = true) ∧
      (s.warmAsked = true → s.dispatchPort.tx = none → now .warmResetAfterAck) ∧
      (s.warmAsked = true → s.dispatchPort.tx ≠ none → (now .warmResetAfterAck ↔ now (.answerSent .dispatch)))) ∧
    ((∀ i, (requestParts i).isSome = true → ¬now i) ∧
      ¬now .coldReset ∧ ¬now .coldResetEnd ∧ ¬now .warmRstNAssert ∧ ¬now .warmResetEnd ∧
      ∀ p j b w, ¬now (.frameStart p b) ∧ ¬now (.frameDiscarded p w) ∧ ¬now (.detectorRise j) ∧ ¬now (.detectorFall j))

/-- While a reset is in progress no port takes a request or a byte (R156 to R158; log 7), an event whose condition does
not stand changes nothing (log 5) and nothing is discarded but what R159 and R160 discard (log 9); an edge that the
channel does not see moves the input level alone. What comes while a port sends is in ReceiverTakesBytes. -/
def Obligations.CommandOutOfPlaceChangesNothing : Prop :=
  ∀ s : State,
    (∀ i p k payload, requestParts i = some (p, k, payload) → s.inReset = true → exec i s = .next s) ∧
    (∀ p b, s.inReset = true → exec (.frameStart p b) s = .next s) ∧
    (∀ p w, s.hears p = false → exec (.frameDiscarded p w) s = .next s) ∧
    (∀ p, (∀ a, (s.port p).rx.start = some a → (s.now - a).toNat < 50) →
      (∀ a, (s.port p).lost.head? = some a → (s.now - a).toNat < 50) → exec (.frameTimeout p) s = .next s) ∧
    (∀ p b, b.toNat ≤ 40 → exec (.frameDiscarded p (.lengthByte b)) s = .next s) ∧
    (∀ p, (s.port p).rx = .hunt → exec (.frameDiscarded p .missingStop) s = .next s) ∧
    (∀ i p k payload, requestParts i = some (p, k, payload) →
      exec (.frameDiscarded p (.complete k.code payload (frameCheck k.code payload))) s = .next s) ∧
    (s.coldReset = false → s.warmHold = true → exec .warmRstNAssert s = .next s) ∧
    (∀ j : Joint, (s.channel j).state = .present →
      exec (.detectorRise j) s = .next { s with det := s.det.set j.val true j.isLt }) ∧
    (∀ j : Joint, (s.channel j).state ≠ .present →
      exec (.detectorFall j) s = .next { s with det := s.det.set j.val false j.isLt }) ∧
    (∀ j, ¬(due (s.channel j).blanking s.now = true ∧ (s.channel j).state = .trailing) →
      exec (.blankingDeadline j) s = .next s) ∧
    (∀ j, ¬(due (s.channel j).overlong s.now = true ∧ (s.channel j).state ≠ .idle) →
      exec (.overlongDeadline j) s = .next s) ∧
    (∀ f, ¬(due (s.side f).feed.lateDeadline s.now = true ∧ (s.side f).feed.state = .inService) →
      exec (.feedLateDeadline f) s = .next s) ∧
    (∀ f, ¬(due (s.side f).feed.outDeadline s.now = true ∧ (s.side f).feed.state = .late) →
      exec (.feedOutDeadline f) s = .next s) ∧
    (∀ f, ¬(due (s.side f).shed.deadline s.now = true ∧ (s.side f).shed.state = .pending) →
      exec (.shedDeadline f) s = .next s) ∧
    (∀ k, ¬(due (s.truck k).idle s.now = true ∧ (s.truck k).state = .standby) → exec (.idleDeadline k) s = .next s) ∧
    (∀ k, due (s.truck k).holdoff s.now = false → exec (.holdoffExpiry k) s = .next s) ∧
    (∀ k, ¬(due (s.truck k).raiseConfirm s.now = true ∧ (s.truck k).state = .raisePending) →
      exec (.raiseConfirmDeadline k) s = .next s) ∧
    (∀ k, ¬(due (s.truck k).lowerConfirm s.now = true ∧ (s.truck k).state = .lowering) →
      exec (.lowerConfirmDeadline k) s = .next s) ∧
    (∀ k, ¬(due (s.truck k).cutAck s.now = true ∧ (s.truck k).state = .drawing) →
      exec (.cutAcknowledgeDeadline k) s = .next s) ∧
    (∀ k, ¬(due (s.truck k).silence s.now = true ∧ (s.truck k).state ∈ [.raisePending, .drawing, .lowering]) →
      exec (.silenceDeadline k) s = .next s) ∧
    (∀ k, ¬(due (s.truck k).silentHold s.now = true ∧ (s.truck k).state = .silent) →
      exec (.silentHoldDeadline k) s = .next s) ∧
    (∀ k, ¬(due (s.truck k).queueWait s.now = true ∧ (s.truck k).state = .queued) →
      exec (.queueWaitDeadline k) s = .next s) ∧
    (due s.spacing s.now = false → exec .spacingDeadline s = .next s) ∧
    (∀ r, (∀ e ∈ s.line, e.isRef r = true → due e.nextJoint s.now = false ∨ e.conf = .stale) →
      exec (.nextJointDeadline r) s = .next s) ∧
    (∀ r, (∀ e ∈ s.line, e.isRef r = true → due e.lost s.now = false ∨ e.conf = .known) →
      exec (.lostDeadline r) s = .next s) ∧
    (∀ n, (∀ e ∈ s.line, e.isPhantomNo n = true → due e.expiry? s.now = false) →
      exec (.phantomExpiry n) s = .next s) ∧
    (¬(due s.cycle s.now = true ∧ s.sect = .running) → exec .cycleDeadline s = .next s) ∧
    (s.inFlight = none → exec .commit s = .next s) ∧
    (s.store = .idle → ∀ b, exec (.storeWriteEnd b) s = .next s) ∧
    (s.coldReset = false → exec .coldResetEnd s = .next s) ∧
    (s.warmAsked = false → exec .warmResetAfterAck s = .next s)

/-! ### Truck port: enrolment and status -/

/-- JOIN, by the first of the four cases that applies (R61). -/
def Obligations.JoinTakesFirstCase : Prop :=
  ∀ (s : State) (f : U16), s.hears .truck = true →
    (f = 0 → exec (.join f) s = .next (s.send .truck (.slot 0 (some .notEnrolled)))) ∧
    (f ≠ 0 → ∀ k, s.Holds k f → (∀ j < k, ¬s.Holds j f) →
      exec (.join f) s = .next ((s.setTruck k { s.truck k with
        lastFrame := some s.now
        idle := if (s.truck k).state = .standby then some (after s.now (s.params.standbyIdle * 1000))
          else (s.truck k).idle
        silence := if (s.truck k).state ∈ [.raisePending, .drawing, .lowering] then
            some (after s.now s.params.silence)
          else (s.truck k).silence }).send .truck (.slot (k.val + 1) none))) ∧
    (f ≠ 0 → (∀ j, ¬s.Holds j f) → ∀ k, (s.truck k).state = .free → (∀ j < k, (s.truck j).state ≠ .free) →
      exec (.join f) s = .next ((s.setTruck k
        { fleet := some f, state := .standby, lastFrame := some s.now
          idle := some (after s.now (s.params.standbyIdle * 1000)) }).send .truck (.slot (k.val + 1) none))) ∧
    (f ≠ 0 → (∀ j, ¬s.Holds j f) → (∀ k, (s.truck k).state ≠ .free) →
      exec (.join f) s = .next (s.send .truck (.slot 0 (some .tableFull))))

/-- STATUS, RAISE, CANCEL and LEAVE whose slot is not 1 to 12, or is FREE, or holds another fleet number, are answered
REFUSED NOT_ENROLLED and change nothing else (R60). -/
def Obligations.UnenrolledFrameRefused : Prop :=
  ∀ (s : State) (slot : Byte) (f : U16), s.hears .truck = true →
    (∀ k : Slot, slot.toNat = k.val + 1 → ¬s.Holds k f) →
    (∀ p i m w, exec (.status slot f p i m w) s = .next (s.send .truck (.refused .status .notEnrolled false))) ∧
    (∀ x r i, exec (.raise slot f x r i) s = .next (s.send .truck (.refused .raise .notEnrolled false))) ∧
    exec (.cancel slot f) s = .next (s.send .truck (.refused .cancel .notEnrolled false)) ∧
    exec (.leave slot f) s = .next (s.send .truck (.refused .leave .notEnrolled false))

/-- STATUS with the pantograph UP, in each state of the truck: what the record becomes, that nothing else changes, and
that the LIMIT answer is built from the record it leaves, its pending refusal then cleared.
The mark of a truck DRAWING throughout is the model's, log 19. -/
def Obligations.StatusUpInEachState : Prop :=
  ∀ (s : State) (k : Slot) (slot panto : Byte) (f inForce measured wanted : U16),
    s.hears .truck = true → slot.toNat = k.val + 1 → s.Holds k f → panto ≠ 0 →
    let t := s.truck k
    let force := min inForce.toNat 3000
    let heard : Truck := { t with
      lastFrame := some s.now, inForce := force, measured := min measured.toNat 4095, panto := .up }
    let silence := some (after s.now s.params.silence)
    let request := min wanted.toNat 3000
    let iMin := if request < t.iMin then max request 200 else t.iMin
    let cut := if t.issued < force then some (t.cutAck.getD (after s.now s.params.cutAcknowledge)) else none
    let leaves := fun r : Truck =>
      exec (.status slot f panto inForce measured wanted) s =
        .next ((s.setTruck k { r with refusal := none }).send .truck ((s.setTruck k r).limitAnswer k))
    (t.state = .standby →
      leaves { heard with idle := some (after s.now (s.params.standbyIdle * 1000)), cutAck := none }) ∧
    (t.state = .queued → leaves { heard with cutAck := none }) ∧
    (t.state = .raisePending →
      leaves { heard with
        state := .drawing, throughout := false, raiseConfirm := none, silentHold := none
        request := request, iMin := iMin, cutAck := cut, silence := silence }) ∧
    (t.state = .drawing →
      leaves { heard with request := request, iMin := iMin, cutAck := cut, silence := silence }) ∧
    (t.state = .lowering → leaves { heard with cutAck := none, silence := silence }) ∧
    (t.state = .silent → s.sect = .running →
      leaves { heard with
        state := .drawing, throughout := false, raiseConfirm := none, silentHold := none
        request := request, iMin := iMin, cutAck := cut, silence := silence }) ∧
    (t.state = .silent → s.sect ≠ .running →
      leaves { heard with
        state := .lowering, throughout := false, issued := 0, raiseConfirm := none, silentHold := none
        lowerConfirm := some (after s.now s.params.lowerConfirm), cutAck := none, silence := silence })

/-- STATUS with the pantograph DOWN, in each state of the truck: the phantoms with the truck's origin tag go; a truck
that was DRAWING, LOWERING or SILENT loses its entry and enters STANDBY, with the holdoff from LOWERING alone.
The mark of a truck DRAWING throughout is the model's, log 19. -/
def Obligations.StatusDownInEachState : Prop :=
  ∀ (s : State) (k : Slot) (slot : Byte) (f inForce measured wanted : U16),
    s.hears .truck = true → slot.toNat = k.val + 1 → s.Holds k f →
    let t := s.truck k
    let heard : Truck := { t with
      lastFrame := some s.now, inForce := min inForce.toNat 3000, measured := min measured.toNat 4095, panto := .down }
    let idle := some (after s.now (s.params.standbyIdle * 1000))
    let request := min wanted.toNat 3000
    let untagged := s.removeEntries fun e => e.hasOrigin k f
    let leaves := fun (u : State) (r : Truck) =>
      exec (.status slot f 0 inForce measured wanted) s =
        .next ((u.setTruck k { r with refusal := none }).send .truck ((u.setTruck k r).limitAnswer k))
    let off := fun holdoff : Option Time =>
      leaves (untagged.removeEntries fun e => e.isTruckOf k) { heard with
        state := .standby, throughout := false, issued := 0, inForce := 0, idle := idle, holdoff := holdoff
        raiseConfirm := none, lowerConfirm := none, cutAck := none, silence := none, silentHold := none
        queueWait := none }
    (t.state = .standby → leaves untagged { heard with idle := idle, cutAck := none }) ∧
    (t.state = .queued → leaves untagged { heard with cutAck := none }) ∧
    (t.state = .raisePending →
      leaves untagged { heard with
        request := request, iMin := if request < t.iMin then max request 200 else t.iMin
        cutAck := none, silence := some (after s.now s.params.silence) }) ∧
    (t.state = .drawing → off none) ∧
    (t.state = .lowering →
      off (if s.params.holdoff = 0 then none else some (after s.now (s.params.holdoff * 1000)))) ∧
    (t.state = .silent → off none)

/-- The LIMIT answer: its directive by state and pantograph, the issued limit, the queue position, the pending refusal,
and the lower-by joint from the truck's reference span, which is absent while N is. -/
def Obligations.LimitAnswerFields : Prop :=
  ∀ (s : State) (k : Slot),
    let t := s.truck k
    ∃ d low pos, s.limitAnswer k = .limit (k.val + 1) d t.issued low pos t.refusal ∧
      (t.state = .standby → d = (if t.panto = .down then .stayDown else .lower) ∧ low = none ∧ pos = 0) ∧
      (t.state = .queued → d = (if t.panto = .down then .wait else .lower)) ∧
      (t.state = .raisePending → d = .raise) ∧ (t.state = .drawing → d = .draw) ∧
      (t.state = .lowering ∨ t.state = .silent → d = .lower) ∧
      (t.state ≠ .queued → pos = 0) ∧
      (∀ before e after, s.queue = before ++ e :: after → (∀ q ∈ before, q.slot ≠ k) → e.slot = k → t.state = .queued →
        pos = before.length + 1) ∧
      (s.n = none → low = none) ∧
      (∀ n ref, s.n = some n →
        (t.state = .queued ∧ (∃ e, s.queue.find? (fun e => e.slot == k) = some e ∧ e.span = ref)) ∨
          (t.state.inLine = true ∧ (∃ e, s.line.find? (fun e => e.isTruckOf k) = some e ∧ e.span = ref)) →
        (s.spanState ref ≠ .opened → ref < n → low = some (ref + 1)) ∧
        (∀ u, ref < u → u < n → s.spanState u ≠ .opened → (∀ i, ref ≤ i → i < u → s.spanState i = .opened) →
          low = some u) ∧
        ((∀ i, ref ≤ i → i < n → s.spanState i = .opened) → low = none))

/-- LEAVE and CANCEL in each state of the truck.
The mark of a truck DRAWING throughout is the model's, log 19. -/
def Obligations.CancelAndLeaveInEachState : Prop :=
  ∀ (s : State) (k : Slot) (slot : Byte) (f : U16),
    s.hears .truck = true → slot.toNat = k.val + 1 → s.Holds k f →
    let t := s.truck k
    let idle := some (after s.now (s.params.standbyIdle * 1000))
    let heard : Truck := { t with lastFrame := some s.now }
    let standby : Truck := { heard with
      state := .standby, throughout := false, issued := 0, inForce := 0, idle := idle, holdoff := none
      raiseConfirm := none, lowerConfirm := none, cutAck := none, silence := none, silentHold := none
      queueWait := none }
    let unqueued : State := { s with queue := s.queue.filter fun e => e.slot ≠ k }
    let limit := fun (u : State) (r : Truck) =>
      exec (.cancel slot f) s =
        .next ((u.setTruck k { r with refusal := none }).send .truck ((u.setTruck k r).limitAnswer k))
    let refuses := fun r : Truck =>
      exec (.cancel slot f) s = .next ((s.setTruck k r).send .truck (.refused .cancel .wrongState false)) ∧
      exec (.leave slot f) s = .next ((s.setTruck k r).send .truck (.refused .leave .wrongState false))
    let frees := fun u : State =>
      exec (.leave slot f) s = .next (({ u.setTruck k {} with
        line := u.line.map (Entry.forget k), phantomCount := phantomsIn (u.line.map (Entry.forget k)) } : State).send
          .truck (.ack .leave false [slot]))
    (t.state = .standby → limit s { heard with idle := idle } ∧ frees s) ∧
    (t.state = .queued → limit unqueued standby ∧ frees unqueued) ∧
    (t.state = .raisePending → limit (s.removeEntries fun e => e.isTruckOf k) standby ∧
      exec (.leave slot f) s = .next ((s.setTruck k { heard with
        silence := some (after s.now s.params.silence) }).send .truck (.refused .leave .wrongState false))) ∧
    (t.state = .drawing ∨ t.state = .lowering → refuses { heard with silence := some (after s.now s.params.silence) }) ∧
    (t.state = .silent → refuses heard)

/-! ### Truck port: the raise queue -/

/-- RAISE: the first check that fails gives the refusal, and the frame is then only taken from the truck; with none, a
STANDBY truck joins the queue at the tail and a QUEUED one has its request, I_min and span replaced at its place.
The entry's mark, set in both cases, and the mark of a truck DRAWING throughout are the model's, log 19. -/
def Obligations.RaiseCheckedThenQueued : Prop :=
  ∀ (s : State) (k : Slot) (slot span : Byte) (f request iMin : U16),
    s.hears .truck = true → slot.toNat = k.val + 1 → s.Holds k f →
    let t := s.truck k
    let idle := if t.state = .standby then some (after s.now (s.params.standbyIdle * 1000)) else t.idle
    let checks : List (Bool × Reason) :=
      [(s.sect != .running, .notRunning), (t.state != .standby && t.state != .queued, .wrongState),
       (!s.inSection span.toNat, .spanInvalid), (s.spanState span.toNat != .opened, .spanBarred),
       (t.holdoff.isSome, .holdoff), (s.occupied span.toNat, .spanOccupied)]
    let first := (checks.find? Prod.fst).map Prod.snd
    let req := min request.toNat 3000
    let asks : Truck := { t with lastFrame := some s.now, request := req, iMin := max 200 (min iMin.toNat req) }
    (∀ r, first = some r →
      exec (.raise slot f span request iMin) s = .next ((s.setTruck k { t with
        lastFrame := some s.now, idle := idle
        silence := if t.state ∈ [.raisePending, .drawing, .lowering] then some (after s.now s.params.silence)
          else t.silence }).send .truck (.refused .raise r false))) ∧
    (first = none → t.state = .standby →
      let r : Truck := { asks with
        state := .queued, throughout := false, idle := none
        queueWait := some (after s.now (s.params.queueWait * 1000)) }
      let u : State := { s with queue := s.queue ++ [⟨k, span.toNat, true⟩] }
      exec (.raise slot f span request iMin) s =
        .next ((u.setTruck k { r with refusal := none }).send .truck ((u.setTruck k r).limitAnswer k))) ∧
    (first = none → t.state = .queued →
      let u : State := { s with queue := s.queue.map fun e => if e.slot = k then ⟨k, span.toNat, true⟩ else e }
      exec (.raise slot f span request iMin) s =
        .next ((u.setTruck k { asks with refusal := none }).send .truck ((u.setTruck k asks).limitAnswer k)))

/-! ### Feed ports -/

/-- FEED_REPORT: refused WRONG_PORT with nothing changed when the identifier does not name the port's feed; otherwise
the overdraw check on the record as it stood, then the record, state and deadlines by the breaker, answered DEMAND, with
the shed capacity in force while the shed is PENDING, DONE or FAILED, and the feed mode and the fault hold flags as the
report leaves them (R48). -/
def Obligations.FeedReportInEachCase : Prop :=
  ∀ (s : State) (f : Feed) (ident breaker : Byte) (volts capacity output : U16),
    s.hears (feedPort f) = true →
    let right := ident = (match f with | .a => 1 | .b => 2)
    let x := s.side f
    let r := x.feed
    let out := min output.toNat 6000
    let wasIn := r.state = .inService ∨ r.state = .late
    let above := out > x.share + s.params.overdrawMargin
    let count := if wasIn then (if above then min 3 (r.overdraw + 1) else 0) else r.overdraw
    let written : FeedRec := { r with
      volts := min volts.toNat 3000, capacity := min capacity.toNat 6000, output := out, lastReport := some s.now }
    let drawing := (List.finRange 12).countP fun k => (s.truck k).state == .drawing
    let inForce := if x.shed.state = .none then none else some x.shed.capacity
    let taken := fun u : State =>
      exec (.feedReport f ident volts capacity breaker output) s =
        .next (u.send (feedPort f) (.demand x.share u.feedMode s.sect x.shed.state inForce u.faults drawing))
    (¬right → exec (.feedReport f ident volts capacity breaker output) s =
      .next (s.send (feedPort f) (.refused .feedReport .wrongPort false))) ∧
    (right → breaker = 1 →
      taken ({ s with faults := if wasIn ∧ above ∧ count = 3 then s.faults.setOverdraw f else s.faults }.setSide f
        { x with feed := { written with
          breaker := .closed, state := .inService, overdraw := count
          lateDeadline := some (after s.now s.params.feedLate)
          outDeadline := some (after s.now s.params.feedOut) } })) ∧
    (right → breaker ≠ 1 →
      taken ({ s with events := if wasIn then s.events.setFeedOut f else s.events }.setSide f
        { x with feed := { written with
          breaker := .opened, state := .out, overdraw := 0, lateDeadline := none, outDeadline := none } }))

/-- SHED puts the feed's shed in PENDING with the clamped capacity and a fresh deadline, SHED_RELEASE puts it in NONE;
each is answered with a DEMAND that shows it, and touches nothing else. -/
def Obligations.ShedAndReleaseTaken : Prop :=
  ∀ (s : State) (f : Feed) (capacity : U16), s.hears (feedPort f) = true →
    let x := s.side f
    let c := min capacity.toNat 6000
    let drawing := (List.finRange 12).countP fun k => (s.truck k).state == .drawing
    exec (.shed f capacity) s =
      .next ((s.setSide f { x with shed :=
        { state := .pending, capacity := c, deadline := some (after s.now s.params.shedTimeout) } }).send (feedPort f)
          (.demand x.share s.feedMode s.sect .pending (some c) s.faults drawing)) ∧
    exec (.shedRelease f) s =
      .next ((s.setSide f { x with shed := { state := .none, capacity := 0, deadline := none } }).send (feedPort f)
          (.demand x.share s.feedMode s.sect .none none s.faults drawing))

/-- The late, out and shed deadlines: the state each leaves, the deadline removed, the event flag set, nothing else. -/
def Obligations.FeedDeadlinesPass : Prop :=
  ∀ (s : State) (f : Feed),
    let x := s.side f
    (due x.feed.lateDeadline s.now = true → x.feed.state = .inService →
      exec (.feedLateDeadline f) s =
        .next ({ s with events := s.events.setFeedLate f }.setSide f
          { x with feed := { x.feed with state := .late, lateDeadline := none } })) ∧
    (due x.feed.outDeadline s.now = true → x.feed.state = .late →
      exec (.feedOutDeadline f) s =
        .next ({ s with events := s.events.setFeedOut f }.setSide f
          { x with feed := { x.feed with state := .out, outDeadline := none, overdraw := 0 } })) ∧
    (due x.shed.deadline s.now = true → x.shed.state = .pending →
      exec (.shedDeadline f) s =
        .next ({ s with events := s.events.setShedFailed f }.setSide f
          { x with shed := { x.shed with state := .failed, deadline := none } }))

/-- The feed mode, V_feed and the capacity in use, from the records (R43, R44, R45). -/
def Obligations.FeedFiguresDerived : Prop :=
  ∀ s : State,
    let inA := s.feedA.feed.state = .inService ∨ s.feedA.feed.state = .late
    let inB := s.feedB.feed.state = .inService ∨ s.feedB.feed.state = .late
    (inA → inB → s.feedMode = .both ∧ s.vFeed = min s.feedA.feed.volts s.feedB.feed.volts) ∧
    (inA → ¬inB → s.feedMode = .aOnly ∧ s.vFeed = s.feedA.feed.volts) ∧
    (¬inA → inB → s.feedMode = .bOnly ∧ s.vFeed = s.feedB.feed.volts) ∧
    (¬inA → ¬inB → s.feedMode = .none ∧ s.vFeed = 0) ∧
    (∀ f, let x := s.side f
      (x.feed.state = .out ∨ x.feed.state = .noReport → s.capacityInUse f = 0) ∧
      (x.feed.state = .inService ∨ x.feed.state = .late →
        s.capacityInUse f = min x.feed.capacity
          (min (if x.feed.state = .late then s.params.fallbackCapacity else x.feed.capacity)
            (if x.shed.state = .none then x.feed.capacity else x.shed.capacity))))

/-! ### Dispatch port: the configuration -/

/-- SET_SPAN and SET_SPAN_COUNT are refused with the first check of R2 that fails, and nothing in the configuration
changes (an isolation sequence is abandoned, R142). -/
def Obligations.GeometryWriteRefused : Prop :=
  ∀ (s : State), s.hears .dispatch = true →
    let checks : List (Bool × Reason) :=
      [(s.store != .idle, .storeBusy), (s.sect == .running, .wrongState), (!s.line.isEmpty, .lineOccupied)]
    (∀ (index resistance : Byte) (length : U16) r,
      (((decide (15 < index.toNat), Reason.spanInvalid) :: checks).find? Prod.fst).map Prod.snd = some r →
      exec (.setSpan index length resistance) s =
        .next ({ s with isoSeq := .none }.send .dispatch (.refused .setSpan r s.isoBusy))) ∧
    (∀ (count : Byte) r, (checks.find? Prod.fst).map Prod.snd = some r →
      exec (.setSpanCount count) s =
        .next ({ s with isoSeq := .none }.send .dispatch (.refused .setSpanCount r s.isoBusy)))

/-- The configuration is valid exactly when N is present and every record from 0 to N-1 is written (R5); T, P and Q are
then those of R6 over these records' resistances, and absent otherwise, as N is to the other blocks (log 14). SET_SPAN
writes the clamped length and resistance and marks the record written, SET_SPAN_COUNT the clamped count; validity and the
derived resistances follow, and the section state with them. -/
def Obligations.GeometryWriteTaken : Prop :=
  ∀ (s : State),
    (s.valid = true ↔ ∃ n, s.spanCount = some n ∧ ∀ i : Fin 16, i.val < n → s.spans[i].written = true) ∧
    (s.valid = true → s.n = s.spanCount) ∧
    (s.valid = false → s.n = none ∧ s.computeNet = none) ∧
    (∀ i, s.inSection i = true ↔ ∃ n, s.n = some n ∧ i < n) ∧
    (∀ n, s.valid = true → s.spanCount = some n → n ≤ 16 →
      let rs := (s.spans.toList.take n).map fun r => r.resistance
      ∃ net, s.computeNet = some net ∧ net = netOf rs ∧ net.n = n ∧ net.t = 2 * rs.sum ∧
        ∀ i, i < n → net.pAt i = 2 * (rs.take i).sum + rs.getD i 0 ∧ net.qAt i = net.t - net.pAt i) ∧
    (s.hears .dispatch = true → s.store = .idle → s.sect ≠ .running → s.line = [] →
      let settled := fun u : State => { u with
        derived := u.computeNet, sect := if u.valid then .stopped else .unconfigured }
      (∀ (index resistance : Byte) (length : U16) (h : index.toNat < 16),
        let l := max 50 (min 800 length.toNat)
        let r := max 1 (min 255 resistance.toNat)
        exec (.setSpan index length resistance) s =
          .next ((settled { s with isoSeq := .none, spans := s.spans.set index.toNat ⟨l, r, true⟩ h }).send .dispatch
            (.ack .setSpan s.isoBusy [index, byte (l / 256), byte l, byte r]))) ∧
      (∀ count : Byte,
        let n := max 4 (min 16 count.toNat)
        exec (.setSpanCount count) s =
          .next ((settled { s with isoSeq := .none, spanCount := some n }).send .dispatch
            (.ack .setSpanCount s.isoBusy [byte n]))))

/-- SET_PARAM: refused for a number outside 1 to 23 and then while the store is WRITING; otherwise the value clamped to
the range and rounded down to the step replaces that parameter, and a new feed late threshold raises the feed out
threshold to at least 100 ms above it (R8, R9). -/
def Obligations.SetParamTaken : Prop :=
  ∀ (s : State) (number : Byte) (value : U16), s.hears .dispatch = true →
    let m := number.toNat
    let p := s.params
    let ranges : List (Nat × Nat) :=
      [(1000, 2800), (0, 6000), (50, 500), (200, 5000), (1000, 10000), (1000, 10000), (300, 3000), (500, 5000),
       (1000, 30000), (10, 600), (5, 300), (0, 120), (200, 2000), (max 500 (p.feedLate + 100), 10000), (50, 2000),
       (1000, 20000), (200, 3000), (30, 900), (5, 250), (5, 200), (5, 120), (300, 3000), (500, 10000)]
    let step := if m = 3 then 10 else if m = 17 then 50 else 1
    (m = 0 ∨ 23 < m →
      exec (.setParam number value) s =
        .next ({ s with isoSeq := .none }.send .dispatch (.refused .setParam .noSuchEntry s.isoBusy))) ∧
    (1 ≤ m → m ≤ 23 → s.store ≠ .idle →
      exec (.setParam number value) s =
        .next ({ s with isoSeq := .none }.send .dispatch (.refused .setParam .storeBusy s.isoBusy))) ∧
    (∀ lo hi, 1 ≤ m → ranges[m - 1]? = some (lo, hi) → s.store = .idle →
      let v := max lo (min hi value.toNat) / step * step
      ∃ p' : Params,
        (∀ i, 1 ≤ i → i ≤ 23 →
          p'.get i = if i = m then v else if m = 13 ∧ i = 14 then max (p.get 14) (v + 100) else p.get i) ∧
        exec (.setParam number value) s =
          .next ({ s with isoSeq := .none, params := p' }.send .dispatch
            (.ack .setParam s.isoBusy [number, byte (v / 256), byte v])))

/-- STORE: refused while WRITING or with an invalid configuration; otherwise the stored copy fails its check and the
write begins. STORE_WRITE_END: the copy holds the working configuration and passes, or fails, with STORE_DONE or
STORE_FAILED; the working configuration and the section state do not change. -/
def Obligations.StoreWritesTheCopy : Prop :=
  ∀ s : State,
    (s.hears .dispatch = true → s.store ≠ .idle →
      exec .store s = .next ({ s with isoSeq := .none }.send .dispatch (.refused .store .storeBusy s.isoBusy))) ∧
    (s.hears .dispatch = true → s.store = .idle → s.valid = false →
      exec .store s = .next ({ s with isoSeq := .none }.send .dispatch (.refused .store .wrongState s.isoBusy))) ∧
    (s.hears .dispatch = true → s.store = .idle → s.valid = true →
      ∃ c, c.passes = false ∧ exec .store s =
        .next ({ s with isoSeq := .none, stored := c, store := .writing s.now }.send .dispatch
          (.ack .store s.isoBusy []))) ∧
    (s.store ≠ .idle →
      (∃ c, c.passes = true ∧ c.spanCount = s.spanCount ∧ c.spans = s.spans ∧ c.params = s.params ∧
        exec (.storeWriteEnd true) s =
          .next { s with stored := c, store := .idle, events := { s.events with storeDone := true } }) ∧
      (∃ c, c.passes = false ∧
        exec (.storeWriteEnd false) s =
          .next { s with stored := c, store := .idle, events := { s.events with storeFailed := true } }))

/-! ### Dispatch port: section control -/

/-- RUN by the section state: from STOPPED to RUNNING with the cycle deadline set, ACK without effect in RUNNING, refused
in UNCONFIGURED (R149). -/
def Obligations.RunBySectionState : Prop :=
  ∀ s : State, s.hears .dispatch = true →
    (s.sect = .stopped →
      exec .run s = .next ({ s with
        isoSeq := .none, sect := .running, cycle := some (after s.now s.params.cyclePeriod) }.send .dispatch
          (.ack .run s.isoBusy [2]))) ∧
    (s.sect = .running →
      exec .run s = .next ({ s with isoSeq := .none }.send .dispatch (.ack .run s.isoBusy [2]))) ∧
    (s.sect = .unconfigured →
      exec .run s = .next ({ s with isoSeq := .none }.send .dispatch (.refused .run .wrongState s.isoBusy)))

/-- STOP in RUNNING: the section is STOPPED, the cycle deadline and the computation in flight are gone, the queue is
empty, each truck is as R115 says, and nothing else changes; in another section state it is answered and changes
nothing.
The mark of a truck DRAWING throughout is the model's, log 19. -/
def Obligations.StopOrdersTrucksOff : Prop :=
  ∀ s : State, s.hears .dispatch = true →
    (s.sect = .running →
      ∃ trucks : Vector Truck 12,
        exec .stop s = .next ({ s with
          isoSeq := .none, sect := .stopped, cycle := none, inFlight := none, queue := [], trucks := trucks }.send
            .dispatch (.ack .stop s.isoBusy [1])) ∧
        ∀ k : Slot, let t := s.truck k
          trucks[k] = match t.state with
            | .queued => { t with
                state := .standby, throughout := false, issued := 0, inForce := 0, refusal := some .notRunning
                idle := some (after s.now (s.params.standbyIdle * 1000)), holdoff := none, raiseConfirm := none
                lowerConfirm := none, cutAck := none, silence := none, silentHold := none, queueWait := none }
            | .raisePending | .drawing => { t with
                state := .lowering, throughout := false, issued := 0, raiseConfirm := none, cutAck := none
                lowerConfirm := some (after s.now s.params.lowerConfirm) }
            | .silent => { t with issued := 0 }
            | .free | .standby | .lowering => t) ∧
    (s.sect = .stopped →
      exec .stop s = .next ({ s with isoSeq := .none }.send .dispatch (.ack .stop s.isoBusy [1]))) ∧
    (s.sect = .unconfigured →
      exec .stop s = .next ({ s with isoSeq := .none }.send .dispatch (.ack .stop s.isoBusy [0])))

/-- CLEAR_FAULTS clears every fault hold flag but PHANTOM_OVERFLOW while four phantoms stand, and its ACK carries what
is still set (R152). -/
def Obligations.ClearFaultsKeepsOverflowAtFour : Prop :=
  ∀ s : State, s.hears .dispatch = true →
    let kept := s.faults.phantomOverflow && s.phantomCount == 4
    exec .clearFaults s =
      .next ({ s with isoSeq := .none, faults := { phantomOverflow := kept } }.send .dispatch
        (.ack .clearFaults s.isoBusy [if kept then 16 else 0]))

/-- CLEAR_COUNTERS sets all eight link error counters to 0; WARM_RESET is answered ACK and only asks for the reset. -/
def Obligations.ClearCountersAndWarmResetAcknowledged : Prop :=
  ∀ s : State, s.hears .dispatch = true →
    let zero := fun x : PortState => { x with checkErrors := 0, unknownKinds := 0 }
    exec .clearCounters s =
      .next ({ s with
        isoSeq := .none, truckPort := zero s.truckPort, feedPortA := zero s.feedPortA, feedPortB := zero s.feedPortB
        dispatchPort := zero s.dispatchPort }.send .dispatch (.ack .clearCounters s.isoBusy [])) ∧
    exec .warmReset s =
      .next ({ s with isoSeq := .none, warmAsked := true }.send .dispatch (.ack .warmReset s.isoBusy []))

/-- COLD_RESET clears the time base, the flags, the counters and all dynamic state and stops a store write, the stored
copy staying as it stands; COLD_RESET_END loads the copy that passes its check, or empties the configuration, and settles
the section (R14, R15, R156; what the configuration holds during the reset is the model's, log 16). -/
def Obligations.ColdResetClearsThenLoads : Prop :=
  ∀ s : State,
    exec .coldReset s = .next { State.reset with
      pending := s.pending, choice := s.choice, coldReset := true, warmPin := s.warmPin, det := s.det
      stored := s.stored, sect := s.sect, spanCount := s.spanCount, spans := s.spans, params := s.params
      derived := s.derived, spanStates := s.spanStates } ∧
    (s.coldReset = true → s.HeldInReset → ∃ t,
      exec .coldResetEnd s = .next t ∧
      (s.stored.passes = true →
        t.spanCount = s.stored.spanCount ∧ t.spans = s.stored.spans ∧ t.params = s.stored.params) ∧
      (s.stored.passes = false → t.spanCount = none ∧ t.spans = Vector.replicate 16 {} ∧ t.params = {}) ∧
      t.sect = (if t.valid then .stopped else .unconfigured) ∧ t.derived = t.computeNet ∧
      (∀ i, t.spanState i = .opened) ∧
      (∀ j, t.channel j = if s.det[j] && !s.warmPin then
          { state := .present, rise := some s.now, overlong := some (after s.now (t.params.overlong * 1000)) }
        else {}) ∧
      t = { s with
        spanCount := t.spanCount, spans := t.spans, params := t.params, sect := t.sect, derived := t.derived
        spanStates := t.spanStates, channels := t.channels, coldReset := false, warmHold := s.warmPin
        store := .idle, events := if s.warmPin then {} else s.events })

/-- A warm reset, by its pin or after the ACK of a request, clears all dynamic state and the flags and keeps the
configuration, the store and its write, the span states and the link counters; at its end the section is STOPPED or
UNCONFIGURED by validity, PENDING_BAR spans are BARRED and active inputs have risen (R14, R16, R85, R138, R157). -/
def Obligations.WarmResetClearsAndKeeps : Prop :=
  ∀ s : State,
    let quiet := fun x : PortState => { x with rx := .hunt, tx := none, lost := [], lostRx := .hunt }
    let cleared : State := { State.reset with
      pending := s.pending, choice := s.choice, now := s.now, sect := s.sect, coldReset := s.coldReset
      warmHold := s.warmHold, warmPin := s.warmPin, det := s.det, spanCount := s.spanCount, spans := s.spans
      params := s.params, derived := s.derived, stored := s.stored, store := s.store, spanStates := s.spanStates
      truckPort := quiet s.truckPort, feedPortA := quiet s.feedPortA, feedPortB := quiet s.feedPortB
      dispatchPort := quiet s.dispatchPort }
    let ends := fun u t : State =>
      t.sect = (if u.valid then .stopped else .unconfigured) ∧ t.derived = u.computeNet ∧
      (∀ i, t.spanState i = if u.spanState i = .pendingBar then .barred else u.spanState i) ∧
      (∀ j, u.channel j = {} → t.channel j = if u.det[j] then
          { state := .present, rise := some u.now, overlong := some (after u.now (u.params.overlong * 1000)) }
        else {}) ∧
      t = { u with
        sect := t.sect, derived := t.derived, spanStates := t.spanStates, channels := t.channels, warmHold := false }
    (s.coldReset = true → exec .warmRstNAssert s = .next { s with warmPin := true }) ∧
    (s.coldReset = false → s.warmHold = false →
      exec .warmRstNAssert s = .next { cleared with warmPin := true, warmHold := true }) ∧
    (s.warmHold = true → ∃ t, exec .warmResetEnd s = .next t ∧ ends { s with warmPin := false } t) ∧
    (s.warmHold = false → exec .warmResetEnd s = .next { s with warmPin := false }) ∧
    (s.warmAsked = true → ∃ t, exec .warmResetAfterAck s = .next t ∧ ends cleared t)

/-- The raise gate is open exactly when the six conditions of R109 hold, and HEALTHY is active exactly when the three of
R154 hold and no reset is in progress. The spacing timer is read by the count, whether or not SPACING_DEADLINE has been
taken (log 21). -/
def Obligations.GateAndHealthyConditions : Prop :=
  ∀ s : State,
    (s.gateOpen = true ↔
      s.sect = .running ∧ s.feedMode ≠ .none ∧ s.faults = {} ∧
      (s.feedA.shed.state ≠ .pending ∧ s.feedB.shed.state ≠ .pending) ∧
      (∀ k, (s.truck k).state ≠ .raisePending) ∧
      (∀ d, s.spacing = some d → ¬(1 ≤ (d - s.now).toNat ∧ (d - s.now).toNat ≤ 2147483647))) ∧
    (s.healthy = true ↔
      s.sect = .running ∧ s.feedMode ≠ .none ∧ s.faults = {} ∧ s.coldReset = false ∧ s.warmHold = false)

/-! ### Dispatch port: isolation -/

/-- ISO_FROM and ISO_TO step the isolation sequence, or put it in NONE with the reason of R139 and R140; each answer
carries ISO_SEQ_RESET when a range held was abandoned. -/
def Obligations.IsolationSequenceSteps : Prop :=
  ∀ (s : State) (x : Byte), s.hears .dispatch = true →
    let busy := s.isoSeq != .none
    let goes := fun (q : IsoSeq) (a : Answer) =>
      (.next (({ s with isoSeq := q } : State).send .dispatch a) : Host.Outcome State Fault Refusal)
    (s.inSection x.toNat = false →
      exec (.isoFrom x) s = goes .none (.refused .isoFrom .spanInvalid busy) ∧
      exec (.isoTo x) s = goes .none (.refused .isoTo .spanInvalid busy)) ∧
    (s.inSection x.toNat = true →
      exec (.isoFrom x) s = goes (.fromSet x.toNat) (.ack .isoFrom busy [x]) ∧
      (∀ a, s.isoSeq = .fromSet a → a ≤ x.toNat →
        exec (.isoTo x) s = goes (.toSet a x.toNat) (.ack .isoTo false [byte a, x])) ∧
      (∀ a, s.isoSeq = .fromSet a → x.toNat < a →
        exec (.isoTo x) s = goes .none (.refused .isoTo .sequence true)) ∧
      ((∀ a, s.isoSeq ≠ .fromSet a) → exec (.isoTo x) s = goes .none (.refused .isoTo .sequence busy)))

/-- ISO_APPLY: with a range held each OPEN span of it becomes PENDING_BAR or BARRED by occupation, the queue entries for
the spans newly barred go and their trucks enter STANDBY with SPAN_BARRED, and nothing else changes; without one it is
refused SEQUENCE.
The mark of a truck DRAWING throughout is the model's, log 19. -/
def Obligations.IsoApplyBarsTheRange : Prop :=
  ∀ s : State, s.hears .dispatch = true →
    (∀ a b, s.isoSeq = .toSet a b → b < 16 →
      let fresh := fun i : Nat => decide (a ≤ i ∧ i ≤ b) && s.spanState i == .opened
      ∃ (spanStates : Vector SpanState 16) (trucks : Vector Truck 12),
        (∀ i : Fin 16, spanStates[i] =
          if fresh i.val then (if s.occupied i.val then .pendingBar else .barred) else s.spanStates[i]) ∧
        (∀ k : Slot, trucks[k] =
          if s.queue.any (fun e => e.slot == k && fresh e.span) then
            { s.truck k with
              state := .standby, throughout := false, issued := 0, inForce := 0, refusal := some .spanBarred
              idle := some (after s.now (s.params.standbyIdle * 1000)), holdoff := none, raiseConfirm := none
              lowerConfirm := none, cutAck := none, silence := none, silentHold := none, queueWait := none }
          else s.truck k) ∧
        exec .isoApply s =
          .next ({ s with
            isoSeq := .none, spanStates := spanStates, trucks := trucks
            queue := s.queue.filter fun e => !fresh e.span }.send .dispatch
              (.ack .isoApply false (byte a :: byte b ::
                ((List.range (b + 1)).filter fun i => a ≤ i).map fun i =>
                  byte ((spanStates[i]?.getD SpanState.opened).code))))) ∧
    ((∀ a b, s.isoSeq ≠ .toSet a b) →
      exec .isoApply s =
        .next ({ s with isoSeq := .none }.send .dispatch (.refused .isoApply .sequence (s.isoSeq != IsoSeq.none))))

/-- RESTORE opens every span of its range and changes nothing else, or is refused SPAN_INVALID. -/
def Obligations.RestoreOpensTheRange : Prop :=
  ∀ (s : State) (a b : Byte), s.hears .dispatch = true →
    (s.inSection a.toNat = false ∨ s.inSection b.toNat = false ∨ b.toNat < a.toNat →
      exec (.restore a b) s =
        .next ({ s with isoSeq := .none }.send .dispatch (.refused .restore .spanInvalid s.isoBusy))) ∧
    (s.inSection a.toNat = true → s.inSection b.toNat = true → a.toNat ≤ b.toNat →
      ∃ spanStates : Vector SpanState 16,
        (∀ i : Fin 16, spanStates[i] = if a.toNat ≤ i.val ∧ i.val ≤ b.toNat then .opened else s.spanStates[i]) ∧
        exec (.restore a b) s =
          .next ({ s with isoSeq := .none, spanStates := spanStates }.send .dispatch
            (.ack .restore s.isoBusy [a, b])))

/-- A dispatch request that is no query and none of the sequence's own, taken or refused, leaves the sequence in NONE,
and its answer carries ISO_SEQ_RESET exactly when it found a sequence in progress; a refused ISO_FROM, ISO_TO or ISO_APPLY
does the same. A query, a frame that is not taken and the requests of the other ports leave the sequence (R142). -/
def Obligations.OtherRequestAbandonsSequence : Prop :=
  ∀ s : State,
    (s.hears .dispatch = true → ∀ (c : Instr) (kind : ReqKind) (payload : List Byte),
      requestParts c = some (.dispatch, kind, payload) →
      let query := kind ∈ [.querySection, .queryTrucks, .queryLine, .queryFeeds, .querySpans, .queryGrants]
      ∃ t a, exec c s = .next t ∧ t.dispatchPort.tx = some ⟨a, s.now⟩ ∧
        (kind ∉ [.isoFrom, .isoTo, .isoApply] → ¬query → t.isoSeq = .none ∧
          ((∃ echo, a = .ack kind (s.isoSeq != .none) echo) ∨ ∃ r, a = .refused kind r (s.isoSeq != .none))) ∧
        (kind ∈ [.isoFrom, .isoTo, .isoApply] →
          ∀ r flag, a = .refused kind r flag → t.isoSeq = .none ∧ flag = (s.isoSeq != .none)) ∧
        (query → t.isoSeq = s.isoSeq ∧
          ((∃ part bytes, a = .report kind part bytes) ∨ ∃ r, a = .refused kind r false))) ∧
    (∀ p w, ∃ t, exec (.frameDiscarded p w) s = .next t ∧ t.isoSeq = s.isoSeq) ∧
    (∀ c p kind payload, requestParts c = some (p, kind, payload) → p ≠ .dispatch →
      ∃ t, exec c s = .next t ∧ t.isoSeq = s.isoSeq)

/-! ### Dispatch port: queries -/

/-- A query changes no state but the answer it sends, but for QUERY_SECTION part 0, which clears the event flags. A part
that is not defined, or whose item does not stand, is refused NO_SUCH_ENTRY; any other part is reported with the items of
R165 in the order of R166, in at most 38 bytes while the raise queue holds at most 12 entries. Where R165 names a
record's fields as a whole, their order is log 23's. -/
def Obligations.QueriesReportParts : Prop :=
  ∀ (s : State) (part : Byte), s.hears .dispatch = true →
    let n := part.toNat
    let one := fun v : Nat => (⟨[byte v], none⟩ : Item)
    let two := fun v : Nat => (⟨[byte (v / 256), byte v], none⟩ : Item)
    let yes := fun b : Bool => one (if b then 1 else 0)
    let opt := fun (width : Nat) (o : Option (List Byte)) =>
      (⟨o.getD (List.replicate width 0), some o.isSome⟩ : Item)
    let time := fun o : Option Time => opt 4 (o.map fun d => bytes4 d.toNat)
    let refuses := fun (c : Instr) (kind : ReqKind) =>
      exec c s = .next (s.send .dispatch (.refused kind .noSuchEntry false))
    let reports := fun (c : Instr) (kind : ReqKind) (items : List Item) =>
      exec c s = .next (s.send .dispatch (.report kind n (contents items))) ∧
        (s.queue.length ≤ 12 → (contents items).length ≤ 38)
    let counters := fun x : PortState => [one x.checkErrors, one x.unknownKinds]
    (part = 0 → exec (.querySection part) s = .next ({ s with events := {} }.send .dispatch
      (.report .querySection 0 (contents ([one s.sect.code, ⟨bytes4 s.now.toNat, none⟩, yes s.healthy,
          yes (decide (s.sect = SectionState.running)), yes (decide (s.feedMode ≠ FeedMode.none)),
          yes (s.faults == ({} : FaultFlags)), one s.faults.code, one s.phantomCount, one s.store.code,
          two s.events.code]
        ++ counters s.truckPort ++ counters s.feedPortA ++ counters s.feedPortB ++ counters s.dispatchPort))))) ∧
    (part ≠ 0 → refuses (.querySection part) .querySection) ∧
    -- the truck report
    (n = 0 → reports (.queryTrucks part) .queryTrucks
      ([one s.queue.length] ++ s.queue.flatMap (fun e => [one (e.slot.val + 1), one e.span])
        ++ [yes s.gateOpen, yes (decide (s.sect = SectionState.running)), yes (decide (s.feedMode ≠ FeedMode.none)),
          yes (s.faults == ({} : FaultFlags)),
          yes (s.feedA.shed.state != ShedState.pending && s.feedB.shed.state != ShedState.pending),
          yes (decide (∀ k : Slot, (s.truck k).state ≠ TruckState.raisePending)),
          yes (s.spacing.all fun d => !(decide (1 ≤ (d - s.now).toNat) && decide ((d - s.now).toNat ≤ 2147483647))),
          time s.spacing])) ∧
    (∀ k : Slot, n = k.val + 1 →
      let t := s.truck k
      reports (.queryTrucks part) .queryTrucks
        [opt 2 (t.fleet.map fun f => bytes2 f.toNat), one t.state.code, two t.request, two t.iMin, two t.issued,
          two t.inForce, one t.panto.code, two t.measured, two (max t.issued t.inForce),
          one (if t.state.inLine then ((s.line.find? fun e => e.isTruckOf k).map Entry.span).getD 255 else 255),
          one (reasonCode t.refusal)]) ∧
    (∀ k : Slot, n = k.val + 13 →
      let t := s.truck k
      reports (.queryTrucks part) .queryTrucks ([t.lastFrame, t.idle, t.holdoff, t.raiseConfirm, t.lowerConfirm, t.cutAck,
        t.silence, t.silentHold, t.queueWait].map time)) ∧
    (24 < n → refuses (.queryTrucks part) .queryTrucks) ∧
    -- the line report
    (n = 0 → reports (.queryLine part) .queryLine [one s.line.length, one (phantomsIn s.line)]) ∧
    (∀ e, 1 ≤ n → n ≤ 16 → s.line[n - 1]? = some e →
      let own := match e.kind with
        | .truck k => (0, k.val + 1, 0, 0, (0 : Time), none)
        | .phantom m c x o => (1, 0, m.val + 1, c, x, o)
      reports (.queryLine part) .queryLine
        [one own.1, one own.2.1, one e.span, one e.conf.code, opt 2 (e.speed.map bytes2), opt 4 (e.stale.map bytes4),
          time e.nextJoint, time e.lost, one own.2.2.1, two own.2.2.2.1, ⟨bytes4 own.2.2.2.2.1.toNat, none⟩,
          opt 3 (own.2.2.2.2.2.map fun o : Slot × U16 => byte (o.1.val + 1) :: bytes2 o.2.toNat),
          one (modelSpan s.feedMode s.derived e.conf e.span)]) ∧
    (∀ j : Joint, n = j.val + 17 →
      let c := s.channel j
      reports (.queryLine part) .queryLine
        [one c.state.code, yes c.spent, time c.rise, time c.lastFall, time c.blanking, time c.overlong]) ∧
    ((1 ≤ n ∧ n ≤ 16 ∧ s.line.length < n) ∨ 33 < n → refuses (.queryLine part) .queryLine) ∧
    -- the feed report
    (n = 0 → reports (.queryFeeds part) .queryFeeds [one s.feedMode.code, two s.vFeed, time s.shareTime]) ∧
    (∀ f : Feed, n = (match f with | .a => 1 | .b => 2) →
      let x := s.side f
      reports (.queryFeeds part) .queryFeeds
        [one x.feed.state.code, two x.feed.volts, two x.feed.capacity, one x.feed.breaker.code, two x.feed.output,
          time x.feed.lastReport, time x.feed.lateDeadline, time x.feed.outDeadline, one x.feed.overdraw,
          one x.shed.state.code, two x.shed.capacity, time x.shed.deadline, two (s.capacityInUse f), two x.share]) ∧
    (2 < n → refuses (.queryFeeds part) .queryFeeds) ∧
    -- the span report
    (∀ h : n < 16,
      let r := s.spans[n]
      let ohms := fun f : Net → Nat => match s.derived with
        | some net => if n < net.n then f net else 65535
        | none => 65535
      reports (.querySpans part) .querySpans
        [two r.length, one r.resistance, yes r.written, one s.spanStates[n].code, two (ohms fun net => net.pAt n),
          two (ohms fun net => net.qAt n)]) ∧
    (n = 16 → reports (.querySpans part) .querySpans
      ([one (s.n.getD 0), two ((s.derived.map Net.t).getD 0)] ++ match s.isoSeq with
        | .none => [one 0, one 0, one 0]
        | .fromSet a => [one 1, one a, one 0]
        | .toSet a b => [one 2, one a, one b])) ∧
    (16 < n → refuses (.querySpans part) .querySpans) ∧
    -- the grant report
    (n = 0 →
      let g := s.grants
      reports (.queryGrants part) .queryGrants
        [opt 1 (g.outcome.map fun o => [byte o.code]), time g.snapTime, time g.commitTime, one g.mode.code, two g.vFeed,
          two g.vMin, two g.capA, two g.capB, two g.shareA, two g.shareB, one g.entries.length,
          opt 5 (g.grant.map fun r => [byte (r.slot.val + 1), byte r.span, byte (r.amount / 256), byte r.amount,
            if r.applied then 1 else 2]),
          yes g.breachA, yes g.breachB,
          two (((List.finRange 12).map fun k => if k ∈ g.breachSlots then 2 ^ k.val else 0).sum)]) ∧
    (∀ e, 1 ≤ n → n ≤ 16 → s.grants.entries[n - 1]? = some e →
      reports (.queryGrants part) .queryGrants
        ((match e.who with
            | .truck k => [one 0, one (k.val + 1)]
            | .phantom m => [one 1, one (m.val + 1)])
          ++ [one e.span, one e.modelSpan, two e.heldOrTarget, two e.charge, two e.estimate])) ∧
    (n = 17 → reports (.queryGrants part) .queryGrants [time s.cycle, time (s.inFlight.map Snapshot.time)]) ∧
    ((1 ≤ n ∧ n ≤ 16 ∧ s.grants.entries.length < n) ∨ 17 < n → refuses (.queryGrants part) .queryGrants)

/-- What an answer is sent as (R162, R163): its envelope, its kind and its payload fields in order, with the codes of the
table of codes. The contents of a report part (R166): the items' bytes in order, after a presence field when an item is
optional; bit i of that field, sent high byte first, is 1 exactly when the optional item i is present. -/
def Obligations.ReportContentsLaidOut : Prop :=
  (let one := fun v : Nat => [(BitVec.ofNat 8 v : Byte)]
   let two := fun v : Nat => [(BitVec.ofNat 8 (v / 256) : Byte), BitVec.ofNat 8 v]
   let flags := fun isoReset : Bool => one (if isoReset then 1 else 0)
   let reason := fun r : Option Reason => one (match r with | none => 0 | some r => r.code)
   let sentAs := fun (a : Answer) (kind : Byte) (payload : List Byte) =>
     a.frame = [0xA5, kind] ++ one payload.length ++ payload ++ split (frameCheck kind payload)
   (∀ k isoReset echo, sentAs (.ack k isoReset echo) 0x80 ([k.code] ++ flags isoReset ++ echo)) ∧
   (∀ k r isoReset, sentAs (.refused k r isoReset) 0x81 ([k.code] ++ reason (some r) ++ flags isoReset)) ∧
   (∀ n r, sentAs (.slot n r) 0x82 (one n ++ reason r)) ∧
   (∀ n d issued low pos r, sentAs (.limit n d issued low pos r) 0x83
     (one n ++ one d.code ++ two issued ++ one (low.getD 0xFF) ++ one pos ++ reason r)) ∧
   (∀ share mode sect shed cap faults drawing, sentAs (.demand share mode sect shed cap faults drawing) 0x84
     (two share ++ one mode.code ++ one sect.code ++ one shed.code ++ two (cap.getD 0xFFFF) ++ one faults.code
       ++ one drawing)) ∧
   (∀ k part contents, sentAs (.report k part contents) 0x85 ([k.code] ++ one part ++ contents)) ∧
   (∀ r, reasonCode r = match r with | none => 0 | some r => r.code)) ∧
  ([Reason.notEnrolled, .notRunning, .wrongState, .spanInvalid, .spanBarred, .holdoff, .spanOccupied, .tableFull,
      .storeBusy, .lineOccupied, .sequence, .noSuchEntry, .wrongPort].map Reason.code =
      [1, 2, 3, 4, 5, 6, 7, 8, 9, 10, 11, 12, 13] ∧
    [Directive.stayDown, .wait, .raise, .draw, .lower].map Directive.code = [0, 1, 2, 3, 4] ∧
    [Panto.down, .up].map Panto.code = [0, 1] ∧ [Breaker.opened, .closed].map Breaker.code = [0, 1] ∧
    [SectionState.unconfigured, .stopped, .running].map SectionState.code = [0, 1, 2] ∧
    [FeedMode.none, .aOnly, .bOnly, .both].map FeedMode.code = [0, 1, 2, 3] ∧
    [ShedState.none, .pending, .done, .failed].map ShedState.code = [0, 1, 2, 3] ∧
    [SpanState.opened, .pendingBar, .barred].map SpanState.code = [0, 1, 2] ∧
    [TruckState.free, .standby, .queued, .raisePending, .drawing, .lowering, .silent].map TruckState.code =
      [0, 1, 2, 3, 4, 5, 6] ∧
    [FeedState.noReport, .inService, .late, .out].map FeedState.code = [0, 1, 2, 3] ∧
    (StoreState.idle.code = 0 ∧ ∀ since, (StoreState.writing since).code = 1) ∧
    [Confidence.known, .stale].map Confidence.code = [0, 1] ∧
    [ChannelState.idle, .present, .trailing].map ChannelState.code = [0, 1, 2] ∧
    [GrantOutcome.met, .breached, .overflow].map GrantOutcome.code = [0, 1, 2]) ∧
  (∀ f : FaultFlags, f.code < 32 ∧ ∀ i, f.code.testBit i =
    [f.unauthorisedContact, f.barredEntry, f.overdrawA, f.overdrawB, f.phantomOverflow].getD i false) ∧
  (∀ e : EventFlags, e.code < 8192 ∧ ∀ i, e.code.testBit i =
    [e.truckSilent, e.truckLost, e.raiseTimeout, e.limitNoncompliant, e.feedLateA, e.feedLateB, e.feedOutA, e.feedOutB,
      e.shedFailedA, e.shedFailedB, e.positionLost, e.storeDone, e.storeFailed].getD i false) ∧
  ∀ items : List Item,
    let marks := items.filterMap fun x => x.mark
    let flat := items.flatMap fun x => x.bytes
    (marks = [] → contents items = flat) ∧
    (marks ≠ [] → marks.length ≤ 16 → ∃ hi lo : Byte, contents items = hi :: lo :: flat ∧
      ∀ i, i < 16 → (hi ++ lo : BitVec 16).getLsbD i = marks.getD i false) ∧
    (∀ t : Time, ∃ a b c d : Byte, bytes4 t.toNat = [a, b, c, d] ∧ (a ++ b ++ c ++ d : BitVec 32) = t)

/-! ### The line order -/

/-- Entries removed from the line order: the others keep their order, the phantom count is reported, and a PENDING_BAR
span on which the removal leaves no entry becomes BARRED; nothing else changes (R84, R143). -/
def Obligations.RemovalTellsEmptiedSpans : Prop :=
  ∀ (s : State) (q : Entry → Bool),
    let t := s.removeEntries q
    let rest := s.line.filter fun e => !q e
    (∀ i, t.spanState i =
      if s.spanState i = .pendingBar ∧ s.line.any (fun e => q e && e.span == i) = true ∧
          rest.any (fun e => e.span == i) = false then .barred
      else s.spanState i) ∧
    t = { s with line := rest, phantomCount := phantomsIn rest, spanStates := t.spanStates }

/-- CLEAR_PHANTOM removes the phantom it numbers, or every phantom with number 0, and is refused NO_SUCH_ENTRY when there
is none to remove. -/
def Obligations.ClearPhantomRemoves : Prop :=
  ∀ (s : State) (number : Byte), s.hears .dispatch = true →
    let u : State := { s with isoSeq := .none }
    let named := fun e : Entry => match e.kind with
      | .phantom m _ _ _ => number == 0 || number.toNat == m.val + 1
      | .truck _ => false
    (s.line.any named = true →
      exec (.clearPhantom number) s =
        .next ((u.removeEntries named).send .dispatch (.ack .clearPhantom s.isoBusy [number]))) ∧
    (s.line.any named = false →
      exec (.clearPhantom number) s =
        .next (u.send .dispatch (.refused .clearPhantom .noSuchEntry s.isoBusy)))

/-- EVICT frees the slot in every state of its truck: a QUEUED truck leaves the queue, and the entry of a truck in a
line-order state becomes a phantom in the same place with the truck's exposure and no origin tag or, with four phantoms
standing, is removed and PHANTOM_OVERFLOW is set; tags that name the slot go (R64, R65, R83). -/
def Obligations.EvictFreesTheSlot : Prop :=
  ∀ (s : State) (k : Slot) (slot : Byte), s.hears .dispatch = true → slot.toNat = k.val + 1 →
    let t := s.truck k
    let u : State := { s with isoSeq := .none }
    let frees := fun v : State =>
      exec (.evict slot) s = .next (({ v.setTruck k {} with
        line := v.line.map (Entry.forget k), phantomCount := phantomsIn (v.line.map (Entry.forget k)) } : State).send
          .dispatch (.ack .evict s.isoBusy [slot]))
    (t.state = .free →
      exec (.evict slot) s = .next (u.send .dispatch (.refused .evict .noSuchEntry s.isoBusy))) ∧
    (t.state = .standby → frees u) ∧
    (t.state = .queued → frees { u with queue := s.queue.filter fun e => e.slot ≠ k }) ∧
    (t.state.inLine = true → ∀ ahead e behind, s.line = ahead ++ e :: behind → e.isTruckOf k = true →
      (∀ x ∈ ahead ++ behind, x.isTruckOf k = false) →
      (phantomsIn s.line < 4 → ∀ n : PhantomNo, (∀ x ∈ s.line, x.isPhantomNo n = false) →
        (∀ m < n, ∃ x ∈ s.line, x.isPhantomNo m = true) →
        frees { u with line := ahead ++ { e with
          kind := .phantom n (max t.issued t.inForce) (after s.now (s.params.phantomHold * 1000)) none } :: behind }) ∧
      (4 ≤ phantomsIn s.line →
        frees { u.removeEntries (fun x => x.isTruckOf k) with faults := { s.faults with phantomOverflow := true } })) ∧
    (∀ other : Byte, other.toNat = 0 ∨ 12 < other.toNat →
      exec (.evict other) s = .next (u.send .dispatch (.refused .evict .noSuchEntry s.isoBusy)))

/-! ### Detector channels and passes -/

/-- The edges of a detector input: a rise starts a pass at an IDLE channel and continues one at a TRAILING channel, a
fall takes a PRESENT channel to TRAILING; while a reset is in progress no channel sees an edge (R85 to R87, R156). -/
def Obligations.DetectorEdgesMoveChannel : Prop :=
  ∀ (s : State) (j : Joint),
    let c := s.channel j
    let pin := fun b : Bool => { s with det := s.det.set j.val b j.isLt }
    (s.inReset = true →
      exec (.detectorRise j) s = .next (pin true) ∧ exec (.detectorFall j) s = .next (pin false)) ∧
    (s.inReset = false → c.state = .idle →
      exec (.detectorRise j) s = .next ((pin true).setChannel j { c with
        state := .present, spent := false, rise := some s.now
        overlong := some (after s.now (s.params.overlong * 1000)) })) ∧
    (s.inReset = false → c.state = .trailing →
      exec (.detectorRise j) s = .next ((pin true).setChannel j { c with state := .present, blanking := none })) ∧
    (s.inReset = false → c.state = .present →
      exec (.detectorFall j) s = .next ((pin false).setChannel j { c with
        state := .trailing, lastFall := some s.now, blanking := some (after s.now s.params.blanking) }))

/-- A pass that makes no record, because it was already spent or is narrower than the minimum (R88), or whose record is
discarded, because the configuration is invalid or the joint is above N (R90), changes the channel alone. -/
def Obligations.PassWithoutEffect : Prop :=
  ∀ (s : State) (j : Joint),
    let c := s.channel j
    (due c.blanking s.now = true → c.state = .trailing → c.spent = true →
      exec (.blankingDeadline j) s = .next (s.setChannel j { c with
        state := .idle, spent := false, rise := none, blanking := none })) ∧
    (due c.blanking s.now = true → c.state = .trailing → c.spent = false → ∀ a b, c.rise = some a →
      c.lastFall = some b → (b - a).toNat < s.params.minPass →
      exec (.blankingDeadline j) s = .next (s.setChannel j { c with
        state := .idle, rise := none, blanking := none, overlong := none })) ∧
    (∀ i v ch, s.PassCompletes i j v ch → (s.n = none ∨ ∃ n, s.n = some n ∧ n < j.val) →
      exec i s = .next (s.setChannel j ch))

/-- A pass at joint j from 1 to N goes to the foremost entry on span j - 1 (R95): below N the entry moves up in its place
and is tracked afresh, a RAISE_PENDING truck is DRAWING, the span left empty is told and an entry onto a barred span sets
BARRED_ENTRY and lowers its truck (R96, R112, R146); at N the entry goes and its truck is STANDBY (R117). A queue entry
for the span entered is marked as altered, so that a grant computed for it is not applied (R111). This mark, and the mark
of a truck DRAWING throughout, are the model's, log 19. -/
def Obligations.PassMovesForemostEntry : Prop :=
  ∀ (s : State) (i : Instr) (j : Joint) (v n : Nat) (ch : Channel) (ahead behind : List Entry) (e : Entry),
    s.PassCompletes i j v ch → s.n = some n → j.val ≤ n →
    s.line = ahead ++ e :: behind → e.span + 1 = j.val → (∀ x ∈ ahead, x.span + 1 ≠ j.val) →
    let left := ahead ++ behind
    let emptied := s.spanState e.span = .pendingBar ∧ left.any (fun x => x.span == e.span) = false
    let barred := s.spanState j.val ≠ .opened
    let moved : Entry := { e with
      span := j.val, conf := .known, speed := some v, stale := some (s.staleAfter j.val v)
      nextJoint := some (after s.now (s.staleAfter j.val v)), lost := none }
    let line := if j.val = n then left else ahead ++ moved :: behind
    ∃ t, exec i s = .next t ∧
      (∀ m, t.spanState m = if m = e.span ∧ emptied then .barred else s.spanState m) ∧
      (∀ m, e.kind ≠ .truck m → t.truck m = s.truck m) ∧
      (∀ k, e.kind = .truck k → let x := s.truck k
        t.truck k =
          if j.val = n then { x with
            state := .standby, throughout := false, issued := 0, inForce := 0, holdoff := none
            idle := some (after s.now (s.params.standbyIdle * 1000)), raiseConfirm := none, lowerConfirm := none
            cutAck := none, silence := none, silentHold := none, queueWait := none }
          else match x.state with
            | .raisePending =>
              if barred then { x with
                state := .lowering, throughout := false, issued := 0, raiseConfirm := none, silentHold := none
                cutAck := none, lowerConfirm := some (after s.now s.params.lowerConfirm) }
              else { x with
                state := .drawing, throughout := false, raiseConfirm := none, silentHold := none
                cutAck := if x.issued < x.inForce then
                    some (x.cutAck.getD (after s.now s.params.cutAcknowledge))
                  else none }
            | .drawing =>
              if barred then { x with
                state := .lowering, throughout := false, issued := 0, raiseConfirm := none, cutAck := none
                lowerConfirm := some (after s.now s.params.lowerConfirm) }
              else x
            | .silent => if barred then { x with issued := 0 } else x
            | .free | .standby | .queued | .lowering => x) ∧
      t = { s.setChannel j ch with
        line := line, phantomCount := phantomsIn line, spanStates := t.spanStates, trucks := t.trucks
        queue := if j.val < n then
            s.queue.map fun q => if q.span = j.val then { q with altered := true } else q
          else s.queue
        faults := if j.val < n ∧ barred then { s.faults with barredEntry := true } else s.faults }

/-- A pass at joint 0, or with no entry on the span below, sets UNAUTHORISED_CONTACT; with fewer than four phantoms one
is placed at the rear of its span with the lowest free number, BARRED_ENTRY being set on a barred span; with four
PHANTOM_OVERFLOW is set and nothing is placed (R82, R97, R146). A queue entry for the phantom's span is marked as altered,
so that a grant computed for it is not applied (R111; the mark is the model's, log 19). -/
def Obligations.UnmatchedPassMakesPhantom : Prop :=
  ∀ (s : State) (i : Instr) (j : Joint) (v n : Nat) (ch : Channel),
    s.PassCompletes i j v ch → s.n = some n → 1 ≤ n → j.val ≤ n →
    (j.val = 0 ∨ ∀ x ∈ s.line, x.span + 1 ≠ j.val) →
    let at' := if j.val = n then n - 1 else j.val
    (∀ m : PhantomNo, phantomsIn s.line < 4 → (∀ x ∈ s.line, x.isPhantomNo m = false) →
      (∀ p < m, ∃ x ∈ s.line, x.isPhantomNo p = true) →
      let stale := s.staleAfter at' v
      let placed : Entry :=
        { kind := .phantom m s.params.phantomCurrent (after s.now (s.params.phantomHold * 1000)) none
          span := at', conf := .known, speed := some v, stale := some stale
          nextJoint := some (after s.now stale), lost := none }
      exec i s = .next { s.setChannel j ch with
        line := s.line.takeWhile (fun x => at' ≤ x.span) ++ placed :: s.line.dropWhile fun x => at' ≤ x.span
        phantomCount := phantomsIn s.line + 1
        queue := s.queue.map fun q => if q.span = at' then { q with altered := true } else q
        faults := { s.faults with
          unauthorisedContact := true, barredEntry := s.faults.barredEntry || s.spanState at' != .opened } }) ∧
    (4 ≤ phantomsIn s.line →
      exec i s = .next { s.setChannel j ch with
        faults := { s.faults with unauthorisedContact := true, phantomOverflow := true } })

/-- The deadlines of an entry: KNOWN to STALE with the lost deadline set from the time at which the next-joint deadline
passed, which is read as the deadline's own value (log 6), a truck lost ordered to lower with
POSITION_LOST, a phantom lost left as it is without a deadline, a phantom expired removed (R93, R94, R98).
The mark of a truck DRAWING throughout is the model's, log 19. -/
def Obligations.EntryDeadlinesPass : Prop :=
  ∀ (s : State) (r : EntryRef) (ahead behind : List Entry) (e : Entry),
    s.line = ahead ++ e :: behind → e.isRef r = true → (∀ x ∈ ahead ++ behind, x.isRef r = false) →
    let with' := fun x : Entry => { s with line := ahead ++ x :: behind, phantomCount := phantomsIn s.line }
    (due e.nextJoint s.now = true → e.conf = .known → ∀ d stale, e.nextJoint = some d → e.stale = some stale →
      exec (.nextJointDeadline r) s =
        .next (with' { e with conf := .stale, nextJoint := none, lost := some (after d stale) })) ∧
    (due e.lost s.now = true → e.conf = .stale →
      (∀ m, r = .phantom m → exec (.lostDeadline r) s = .next (with' { e with lost := none })) ∧
      (∀ k, r = .truck k → let x := s.truck k
        exec (.lostDeadline r) s =
          .next ({ with' { e with lost := none } with events := { s.events with positionLost := true } }.setTruck k
            (match x.state with
              | .raisePending | .drawing => { x with
                  state := .lowering, throughout := false, issued := 0, raiseConfirm := none, cutAck := none
                  lowerConfirm := some (after s.now s.params.lowerConfirm) }
              | .silent => { x with issued := 0 }
              | .free | .standby | .queued | .lowering => x)))) ∧
    (∀ m c x o, r = .phantom m → e.kind = .phantom m c x o → due (some x) s.now = true →
      exec (.phantomExpiry m) s = .next (s.removeEntries fun e => e.isPhantomNo m))

/-! ### Deadlines of the truck table and the raise arbiter -/

/-- The idle deadline frees a STANDBY truck's slot, the holdoff expiry and the spacing deadline are removed, the queue
wait takes a QUEUED truck out of the queue to STANDBY; nothing else changes (R63, R65, R107, R110, R119).
The mark of a truck DRAWING throughout is the model's, log 19. -/
def Obligations.TruckTimersPass : Prop :=
  ∀ (s : State) (k : Slot),
    let t := s.truck k
    let line := s.line.map (Entry.forget k)
    (due t.idle s.now = true → t.state = .standby →
      exec (.idleDeadline k) s = .next { s.setTruck k {} with line := line, phantomCount := phantomsIn line }) ∧
    (due t.holdoff s.now = true → exec (.holdoffExpiry k) s = .next (s.setTruck k { t with holdoff := none })) ∧
    (due t.queueWait s.now = true → t.state = .queued →
      exec (.queueWaitDeadline k) s = .next ({ s with queue := s.queue.filter fun e => e.slot ≠ k }.setTruck k { t with
        state := .standby, throughout := false, issued := 0, inForce := 0, holdoff := none
        idle := some (after s.now (s.params.standbyIdle * 1000)), raiseConfirm := none, lowerConfirm := none
        cutAck := none, silence := none, silentHold := none, queueWait := none })) ∧
    (due s.spacing s.now = true → exec .spacingDeadline s = .next { s with spacing := none })

/-- The silence and lower-confirm deadlines take the truck to SILENT with TRUCK_SILENT, its limits, request and entry
kept; the cut-acknowledge deadline takes it to LOWERING with LIMIT_NONCOMPLIANT; nothing else changes (R71, R73, R74,
R114, R118).
The mark of a truck DRAWING throughout is the model's, log 19. -/
def Obligations.SilenceAndCutDeadlinesPass : Prop :=
  ∀ (s : State) (k : Slot),
    let t := s.truck k
    let silent : State := { s with events := { s.events with truckSilent := true } }.setTruck k { t with
      state := .silent, throughout := false, silence := none, raiseConfirm := none, lowerConfirm := none
      cutAck := none, silentHold := some (after s.now s.params.silentHold) }
    (due t.silence s.now = true → t.state = .raisePending ∨ t.state = .drawing ∨ t.state = .lowering →
      exec (.silenceDeadline k) s = .next silent) ∧
    (due t.lowerConfirm s.now = true → t.state = .lowering →
      exec (.lowerConfirmDeadline k) s = .next silent) ∧
    (due t.cutAck s.now = true → t.state = .drawing →
      exec (.cutAcknowledgeDeadline k) s =
        .next ({ s with events := { s.events with limitNoncompliant := true } }.setTruck k { t with
          state := .lowering, throughout := false, issued := 0, raiseConfirm := none, cutAck := none
          lowerConfirm := some (after s.now s.params.lowerConfirm) }))

/-- The raise-confirm and silent-hold deadlines turn the truck's entry into a phantom in its place, with the truck's
exposure and its slot and fleet number as origin tag or, with four phantoms standing, remove it and set PHANTOM_OVERFLOW;
the truck enters STANDBY, in holdoff after a raise that timed out (R76, R83, R113, R119).
The mark of a truck DRAWING throughout is the model's, log 19. -/
def Obligations.UnconfirmedTruckBecomesPhantom : Prop :=
  ∀ (s : State) (k : Slot) (f : U16) (ahead behind : List Entry) (e : Entry),
    (s.truck k).fleet = some f → s.line = ahead ++ e :: behind → e.isTruckOf k = true →
    (∀ x ∈ ahead ++ behind, x.isTruckOf k = false) →
    let t := s.truck k
    let ends := fun (c : Instr) (holdoff : Option Time) (events : EventFlags) =>
      let left := fun u : State => exec c s = .next ({ u with events := events }.setTruck k { t with
        state := .standby, throughout := false, issued := 0, inForce := 0, holdoff := holdoff
        idle := some (after s.now (s.params.standbyIdle * 1000)), raiseConfirm := none, lowerConfirm := none
        cutAck := none, silence := none, silentHold := none, queueWait := none })
      (phantomsIn s.line < 4 → ∀ n : PhantomNo, (∀ x ∈ s.line, x.isPhantomNo n = false) →
        (∀ m < n, ∃ x ∈ s.line, x.isPhantomNo m = true) →
        left { s with
          line := ahead ++ { e with
            kind := .phantom n (max t.issued t.inForce) (after s.now (s.params.phantomHold * 1000)) (some (k, f)) }
              :: behind
          phantomCount := phantomsIn s.line + 1 }) ∧
      (4 ≤ phantomsIn s.line →
        left { s.removeEntries (fun x => x.isTruckOf k) with faults := { s.faults with phantomOverflow := true } })
    (due t.raiseConfirm s.now = true → t.state = .raisePending →
      ends (.raiseConfirmDeadline k)
        (if s.params.holdoff = 0 then none else some (after s.now (s.params.holdoff * 1000)))
        { s.events with raiseTimeout := true }) ∧
    (due t.silentHold s.now = true → t.state = .silent →
      ends (.silentHoldDeadline k) none { s.events with truckLost := true })

/-! ### The allocation cycle -/

/-- A cycle expiry in RUNNING takes a snapshot of the items of R124 as they stand and sets the cycle deadline one period
after the time at which it passed, which is read as the deadline's own value (R122; log 6); beside the snapshot only the
model's two marks change (log 19). -/
def Obligations.CycleTakesSnapshot : Prop :=
  ∀ (s : State) (d : Time), s.cycle = some d → due s.cycle s.now = true → s.sect = .running →
    ∃ (x : Snapshot) (trucks : Vector Truck 12),
      exec .cycleDeadline s = .next { s with
        inFlight := some x, cycle := some (after d s.params.cyclePeriod), trucks := trucks
        queue := s.queue.map fun e => { e with altered := false } } ∧
      (∀ k : Slot, trucks[k] = { s.truck k with throughout := (s.truck k).state == .drawing }) ∧
      x.time = s.now ∧ x.net = s.derived ∧ x.vMin = s.params.vMin ∧ x.mode = s.feedMode ∧ x.vFeed = s.vFeed ∧
      x.capA = s.capacityInUse .a ∧ x.capB = s.capacityInUse .b ∧ x.overflow = s.faults.phantomOverflow ∧
      x.gate = s.gateOpen ∧
      x.entries = s.line.map (fun e => {
        kind := match e.kind with
          | .truck k => .truck k (s.truck k).fleet (s.truck k).state (s.truck k).request (s.truck k).iMin
              (max (s.truck k).issued (s.truck k).inForce)
          | .phantom n c _ _ => .phantom n c
        span := e.span, conf := e.conf, modelSpan := modelSpan s.feedMode s.derived e.conf e.span }) ∧
      x.head = s.queue.head?.map (fun e => {
        slot := e.slot, fleet := (s.truck e.slot).fleet, span := e.span, request := (s.truck e.slot).request
        iMin := (s.truck e.slot).iMin, spanOpen := s.spanState e.span == .opened, spanOccupied := s.occupied e.span })

/-- COMMIT in RUNNING: the committed grant table is the record of R131, each truck DRAWING since the snapshot has its
target as issued limit or, with target 0, a lower order, both shares and the commit time are handed over and each
PENDING shed that fits is DONE (R53, R131, R132, R134); outside RUNNING nothing is committed (R123). DRAWING since the
snapshot is the model's mark (log 19), the breached checks are empty unless the outcome is BREACHED (log 24), and a
phantom's voltage estimate is 0 (log 23). -/
def Obligations.CommitHandsResultsOn : Prop :=
  ∀ (s : State) (x : Snapshot), s.inFlight = some x →
    (s.sect ≠ .running → exec .commit s = .next { s with inFlight := none }) ∧
    (s.sect = .running → x.entries.Pairwise (fun a b => a.who ≠ b.who) →
      let load := x.committedLoad
      let share := fun f : Feed => match f with
        | .a => (shares load).1
        | .b => (shares load).2
      ∃ t, exec .commit s = .next t ∧
        (∃ applied, t.grants =
          { snapTime := some x.time, commitTime := some s.now, outcome := some x.outcome
            breachA := x.outcome == .breached && !meetsCapA x.heldSet
            breachB := x.outcome == .breached && !meetsCapB x.heldSet
            breachSlots := t.grants.breachSlots
            mode := x.mode, vFeed := x.vFeed, vMin := x.vMin, capA := x.capA, capB := x.capB
            entries := t.grants.entries, grant := x.grant.map fun g => ⟨g.1.slot, g.1.span, g.2, applied⟩
            shareA := share .a, shareB := share .b }) ∧
        (∀ k, k ∈ t.grants.breachSlots ↔ x.outcome = .breached ∧
          ∃ e ∈ x.entries, e.who = .truck k ∧ meetsFloor x.heldSet e.modelSpan = false) ∧
        t.grants.entries.length = x.entries.length ∧
        (∀ (i : Nat) (e : SnapEntry) c d, x.entries[i]? = some e → x.heldOrTargets[i]? = some c → x.charges[i]? = some d →
          t.grants.entries[i]? = some
            { who := e.who, span := e.span, modelSpan := e.modelSpan, heldOrTarget := c, charge := d
              estimate := if e.isTruck then estimateAt load e.modelSpan else 0 }) ∧
        (∀ (i : Nat) (e : SnapEntry) c k f r m y, x.entries[i]? = some e → x.heldOrTargets[i]? = some c →
          e.kind = .truck k f .drawing r m y → (s.truck k).state = .drawing → (s.truck k).throughout = true →
          (s.truck k).fleet = f → let u := s.truck k
          t.truck k =
            if c = 0 then { u with
              state := .lowering, throughout := false, issued := 0, raiseConfirm := none, cutAck := none
              lowerConfirm := some (after s.now s.params.lowerConfirm) }
            else { u with
              issued := c
              cutAck := if c < u.inForce then some (u.cutAck.getD (after s.now s.params.cutAcknowledge)) else none }) ∧
        (∀ k, (s.truck k).state ≠ .queued →
          ¬((s.truck k).state = .drawing ∧ (s.truck k).throughout = true ∧
            ∃ e ∈ x.entries, ∃ r m y, e.kind = .truck k (s.truck k).fleet .drawing r m y) →
          t.truck k = s.truck k) ∧
        t.shareTime = some s.now ∧
        (∀ f, let y := s.side f
          t.side f = { y with
            share := share f
            shed := if y.shed.state = .pending ∧ share f ≤ y.shed.capacity then
                { y.shed with state := .done, deadline := none }
              else y.shed }) ∧
        t = { s with
          inFlight := none, grants := t.grants, trucks := t.trucks, feedA := t.feedA, feedB := t.feedB
          shareTime := t.shareTime, queue := t.queue, line := t.line, phantomCount := t.phantomCount
          spacing := t.spacing })

/-- The raise grant of a commit: applied exactly when the truck is still QUEUED with the fleet number of the grant, at
the head of the queue with the span of the grant and unchanged since the snapshot, and the span is OPEN and unoccupied;
otherwise discarded, with the queue, the line order and the spacing deadline as they were (R81, R111, R133). Unchanged
since the snapshot, and that no entry has come onto its span since then, is the model's mark (log 19), which RAISE and a
pass set. -/
def Obligations.RaiseGrantAppliedOrDiscarded : Prop :=
  ∀ (s : State) (x : Snapshot), s.inFlight = some x → s.sect = .running →
    let keeps := fun t : State =>
      t.queue = s.queue ∧ t.line = s.line ∧ t.spacing = s.spacing ∧
        ∀ k, (s.truck k).state ≠ .drawing → t.truck k = s.truck k
    (x.grant = none → ∃ t, exec .commit s = .next t ∧ t.grants.grant = none ∧ keeps t) ∧
    (∀ h a, x.grant = some (h, a) →
      let k := h.slot
      let u := s.truck k
      let holds := u.state = .queued ∧ u.fleet = h.fleet ∧ s.queue.head? = some ⟨k, h.span, false⟩ ∧
        s.spanState h.span = .opened ∧ s.occupied h.span = false
      let stale := s.staleAfter h.span 500
      let placed : Entry :=
        { kind := .truck k, span := h.span, conf := .known, speed := none, stale := some stale
          nextJoint := some (after s.now stale), lost := none }
      (holds → ∃ t, exec .commit s = .next t ∧ t.grants.grant = some ⟨k, h.span, a, true⟩ ∧
        t.queue = s.queue.tail ∧ t.spacing = some (after s.now s.params.raiseSpacing) ∧
        t.line = s.line.takeWhile (fun e => h.span ≤ e.span) ++ placed :: s.line.dropWhile (fun e => h.span ≤ e.span) ∧
        t.truck k = { u with
          state := .raisePending, throughout := false, issued := a, queueWait := none
          raiseConfirm := some (after s.now s.params.raiseConfirm)
          silence := some (after s.now s.params.silence) } ∧
        ∀ j, j ≠ k → (s.truck j).state ≠ .drawing → t.truck j = s.truck j) ∧
      (¬holds → ∃ t, exec .commit s = .next t ∧ t.grants.grant = some ⟨k, h.span, a, false⟩ ∧ keeps t))

/-- The computation. The held charges (R125) decide the outcome (R126). With outcome MET each DRAWING truck, head to
tail, has the increment on the running set as its target, and the held charges with all targets meet every limit; with
another outcome every target is 0 and no raise is granted; a target is 0 or a multiple of 50 A from I_min to the request,
and so 0 for a request below the least I_min, 200 A (R127). A DRAWING truck is charged the greater of target and exposure,
any other entry its held charge (R128). A raise is granted exactly under the conditions of R129, with the increment on the
charges set, and the committed load is the charges set with the grant added (R130). -/
def Obligations.TargetsMeetEveryLimit : Prop :=
  ∀ x : Snapshot,
    let held : SnapEntry → Nat := fun e =>
      match e.kind with
      | .truck _ _ st _ _ exposure => if st = .drawing then 0 else exposure
      | .phantom _ current => current
    let isTruck : SnapEntry → Bool := fun e =>
      match e.kind with
      | .truck _ _ _ _ _ _ => true
      | .phantom _ _ => false
    let set := fun charges : List Nat =>
      ({ mode := x.mode, vFeed := x.vFeed, vMin := x.vMin, capA := x.capA, capB := x.capB, net := x.net
         entries := List.zipWith (fun e c => ⟨isTruck e, e.modelSpan, c⟩) x.entries charges } : InputSet)
    (x.heldSet = set (x.entries.map held) ∧ x.targetSet = set x.heldOrTargets ∧ x.chargesSet = set x.charges ∧
      x.heldOrTargets.length = x.entries.length ∧ x.charges.length = x.entries.length) ∧
    ((x.outcome = .overflow ↔ x.overflow = true) ∧
      (x.outcome = .met ↔ x.overflow = false ∧ meetsLimits x.heldSet = true)) ∧
    (x.outcome = .met →
      meetsLimits x.targetSet = true ∧
      ∀ (i : Nat) (e : SnapEntry) k f r m y, x.entries[i]? = some e → e.kind = .truck k f .drawing r m y →
        x.heldOrTargets[i]? =
          some (headroom (set (x.heldOrTargets.take i ++ (x.entries.drop i).map held)) ⟨e.modelSpan, r, m, true⟩)) ∧
    (x.outcome ≠ .met → x.grant = none ∧
      ∀ (i : Nat) (e : SnapEntry) k f r m y, x.entries[i]? = some e → e.kind = .truck k f .drawing r m y →
        x.heldOrTargets[i]? = some 0) ∧
    (∀ (i : Nat) (e : SnapEntry) c k f r m y, x.entries[i]? = some e → e.kind = .truck k f .drawing r m y →
      x.heldOrTargets[i]? = some c →
      (c = 0 ∨ (m ≤ c ∧ c ≤ r ∧ c % 50 = 0)) ∧ (r < 200 → 200 ≤ m → c = 0) ∧ x.charges[i]? = some (max c y)) ∧
    (∀ (i : Nat) (e : SnapEntry), x.entries[i]? = some e → (∀ k f r m y, e.kind ≠ .truck k f .drawing r m y) →
      x.heldOrTargets[i]? = some (held e) ∧ x.charges[i]? = some (held e)) ∧
    (∀ h a, x.grant = some (h, a) ↔
      x.outcome = .met ∧ x.gate = true ∧ x.head = some h ∧ h.spanOpen = true ∧ h.spanOccupied = false ∧
        a = headroom x.chargesSet ⟨h.span, h.request, h.iMin, false⟩ ∧ 0 < a) ∧
    (x.grant = none → x.committedLoad = x.chargesSet) ∧
    (∀ h a, x.grant = some (h, a) →
      x.committedLoad = { x.chargesSet with entries := x.chargesSet.entries ++ [⟨true, h.span, a⟩] } ∧
        meetsLimits x.committedLoad = true ∧ h.iMin ≤ a ∧ a ≤ h.request ∧ a % 50 = 0)

/-! ### The drop calculator -/

/-- An increment keeps every limit (R34), whether the candidate is one of the entries or not; on a list that breaches a
limit, or for a candidate whose own point breaches its floor, it is 0. It is 0 or a multiple of 50 A from I_min to the
request (R33). In feed mode NONE it is 0 (R32); in another mode, over the resistances of a valid configuration, it is the
largest multiple of 50 A up to the request that keeps every constraint point (R29) at its floor and every capacity check
of the mode met, 0 when even 0 A keeps them not, and 0 when it falls below I_min (R30 to R33). -/
def Obligations.IncrementKeepsEveryLimit : Prop :=
  ∀ (inp : InputSet) (c : Candidate),
    let h := headroom inp c
    (meetsLimits inp = false → h = 0) ∧
    (c.listed = false → 0 < h → ∀ truck : Bool,
      meetsLimits { inp with entries := inp.entries ++ [⟨truck, c.span, h⟩] } = true) ∧
    (c.listed = true → ∀ ahead e behind, inp.entries = ahead ++ e :: behind → e.isTruck = true → e.span = c.span →
      meetsLimits inp = true →
      meetsLimits { inp with entries := ahead ++ { e with charge := e.charge + h } :: behind } = true) ∧
    (c.listed = false → meetsFloor inp c.span = false → h = 0) ∧
    (h = 0 ∨ (c.iMin ≤ h ∧ h ≤ c.request ∧ h % 50 = 0)) ∧
    (inp.mode = .none → h = 0) ∧
    (∀ rs : List Nat, inp.net = some (netOf rs) → (∀ r ∈ rs, 1 ≤ r) → (∀ e ∈ inp.entries, e.span < rs.length) →
      c.span < rs.length → inp.mode ≠ .none →
      let t := 2 * rs.sum
      let p := fun m : Nat => 2 * (rs.take m).sum + rs.getD m 0
      let z := transfer inp.mode (netOf rs)
      let total := (inp.entries.map fun e => e.charge).sum
      let uA := (inp.entries.map fun e => e.charge * (t - p e.span)).sum
      let uB := (inp.entries.map fun e => e.charge * p e.span).sum
      let keeps := fun added : Nat =>
        (∀ m, ((∃ e ∈ inp.entries, e.isTruck = true ∧ e.span = m) ∨ (c.listed = false ∧ m = c.span)) →
          (((inp.entries.map fun e => z m e.span * e.charge).sum + z m c.span * added : Nat) : Int)
            ≤ 2000 * ((inp.vFeed : Int) - (inp.vMin : Int))) ∧
        (inp.mode = .both → uA + (t - p c.span) * added ≤ t * inp.capA ∧ uB + p c.span * added ≤ t * inp.capB) ∧
        (inp.mode = .aOnly → total + added ≤ inp.capA) ∧
        (inp.mode = .bOnly → total + added ≤ inp.capB)
      ∃ v, (v % 50 = 0 ∧ v ≤ c.request ∧ (v = 0 ∨ keeps v)) ∧
        (∀ w, w % 50 = 0 → w ≤ c.request → keeps w → w ≤ v) ∧
        h = if v < c.iMin then 0 else v)

/-- The shares (R25, R26) and their sum (R27): in BOTH the sum of the charges, or one more when U_A is no multiple of T;
in a single-feed mode the live feed has the whole sum; in NONE both are 0. -/
def Obligations.SharesAddUp : Prop :=
  ∀ (inp : InputSet) (rs : List Nat), inp.net = some (netOf rs) → rs ≠ [] → (∀ r ∈ rs, 1 ≤ r) →
    (∀ e ∈ inp.entries, e.span < rs.length) →
    let t := 2 * rs.sum
    let p := fun m : Nat => 2 * (rs.take m).sum + rs.getD m 0
    let total := (inp.entries.map fun e => e.charge).sum
    let uA := (inp.entries.map fun e => e.charge * (t - p e.span)).sum
    let uB := (inp.entries.map fun e => e.charge * p e.span).sum
    (inp.mode = .both →
      shares inp = ((uA + t - 1) / t, (uB + t - 1) / t) ∧
      (shares inp).1 + (shares inp).2 = if uA % t = 0 then total else total + 1) ∧
    (inp.mode = .aOnly → shares inp = (total, 0)) ∧
    (inp.mode = .bOnly → shares inp = (0, total)) ∧
    (inp.mode = .none → shares inp = (0, 0))

/-- The transfer resistance from the span resistances (R6, R20, R21): its value in each mode, its symmetry, its bounds
and how it falls with distance. -/
def Obligations.TransferResistanceBounds : Prop :=
  ∀ (rs : List Nat), (∀ r ∈ rs, 1 ≤ r ∧ r ≤ 255) →
    let net := netOf rs
    let t := 2 * rs.sum
    let p := fun m : Nat => 2 * (rs.take m).sum + rs.getD m 0
    let z := fun a b => transfer .both net a b
    (∀ a b, a < rs.length → b < rs.length →
      z a b = (p (min a b) * (t - p (max a b)) + t - 1) / t ∧
      z a b = z b a ∧ 1 ≤ z a b ∧ z a b ≤ (t + 3) / 4 ∧
      transfer .aOnly net a b = p (min a b) ∧ transfer .bOnly net a b = t - p (max a b) ∧
      (1 ≤ transfer .aOnly net a b ∧ transfer .aOnly net a b ≤ t - 1) ∧
      (1 ≤ transfer .bOnly net a b ∧ transfer .bOnly net a b ≤ t - 1)) ∧
    (∀ a b c, c < rs.length → a ≤ b → b ≤ c → z a c ≤ z a b ∧ z c a ≤ z c b) ∧
    (∀ a b, b < rs.length → a < b →
      transfer .aOnly net a a < transfer .aOnly net b b ∧ transfer .bOnly net b b < transfer .bOnly net a a)

/-- The drop, the voltage estimate and the floor test (R22, R23, R24): the test on the exact sum is the same as the
unclamped estimate being at least V_min. The limit test (R28): the floor of every TRUCK entry and the two capacity checks
of each mode, which in BOTH are exact as well. -/
def Obligations.FloorTestIsExact : Prop :=
  (∀ (inp : InputSet) (net : Net) (m : Nat), inp.net = some net →
    let sum := (inp.entries.map fun e => transfer inp.mode net m e.span * e.charge).sum
    let drop := (sum + 1999) / 2000
    (inp.mode ≠ .none →
      dropAt inp m = drop ∧ estimateAt inp m = inp.vFeed - drop ∧
      (meetsFloor inp m = true ↔ (sum : Int) ≤ 2000 * ((inp.vFeed : Int) - (inp.vMin : Int))) ∧
      (meetsFloor inp m = true ↔ (inp.vMin : Int) ≤ (inp.vFeed : Int) - (drop : Int)) ∧
      (0 < sum → 1 ≤ dropAt inp m)) ∧
    (inp.mode = .none → dropAt inp m = 0 ∧ estimateAt inp m = 0 ∧ meetsFloor inp m = true)) ∧
  ∀ (inp : InputSet) (rs : List Nat), inp.net = some (netOf rs) → rs ≠ [] → (∀ r ∈ rs, 1 ≤ r) →
    (∀ e ∈ inp.entries, e.span < rs.length) →
    let t := 2 * rs.sum
    let p := fun m : Nat => 2 * (rs.take m).sum + rs.getD m 0
    let total := (inp.entries.map fun e => e.charge).sum
    let uA := (inp.entries.map fun e => e.charge * (t - p e.span)).sum
    let uB := (inp.entries.map fun e => e.charge * p e.span).sum
    let capacities := fun a b : Prop => (meetsCapA inp = true ↔ a) ∧ (meetsCapB inp = true ↔ b)
    (inp.mode = .both →
      capacities (uA ≤ t * inp.capA) (uB ≤ t * inp.capB) ∧
      capacities ((shares inp).1 ≤ inp.capA) ((shares inp).2 ≤ inp.capB)) ∧
    (inp.mode = .aOnly → capacities (total ≤ inp.capA) True) ∧
    (inp.mode = .bOnly → capacities True (total ≤ inp.capB)) ∧
    (inp.mode = .none → capacities (total = 0) (total = 0)) ∧
    (meetsLimits inp = true ↔
      (∀ e ∈ inp.entries, e.isTruck = true → meetsFloor inp e.span = true) ∧
        meetsCapA inp = true ∧ meetsCapB inp = true) ∧
    (inp.entries = [] → meetsLimits inp = true)

/-- The model span (R35): the span itself when KNOWN, at the top and in mode NONE; otherwise the span of the larger self
transfer resistance, the upper one when they are equal; so the span above in A_ONLY and the span itself in B_ONLY. -/
def Obligations.StaleEntryModelSpan : Prop :=
  ∀ (mode : FeedMode) (rs : List Nat) (i : Nat), (∀ r ∈ rs, 1 ≤ r) → i < rs.length →
    let net := netOf rs
    modelSpan mode (some net) .known i = i ∧
    (i + 1 = rs.length ∨ mode = .none → modelSpan mode (some net) .stale i = i) ∧
    (i + 1 < rs.length → mode ≠ .none →
      (transfer mode net (i + 1) (i + 1) < transfer mode net i i → modelSpan mode (some net) .stale i = i) ∧
      (transfer mode net i i ≤ transfer mode net (i + 1) (i + 1) → modelSpan mode (some net) .stale i = i + 1)) ∧
    (i + 1 < rs.length → modelSpan .aOnly (some net) .stale i = i + 1 ∧ modelSpan .bOnly (some net) .stale i = i)

/-! ### Link ports -/

/-- The receiver byte by byte (R159; that the bytes after the start byte come by FRAME_START too is log 8), the last byte
of a frame with its examination, a frame discarded with its counter, which stays at 15 (R160, R161), a frame that runs out
of time, and the end of an answer (R158). What comes while the port sends is lost: a request, or the start byte of one
outside the bytes of an earlier one, is kept with its time, and 50 ms later it is counted as a frame that runs out of time
(R158, R159; how the lost bytes are followed, and that the receiver is not moved, is log 31). -/
def Obligations.ReceiverTakesBytes : Prop :=
  ∀ (s : State) (p : Port),
    let x := s.port p
    let becomes := fun rx : Rx => s.setPort p { x with rx := rx }
    let badCheck := s.setPort p { x with rx := .hunt, checkErrors := min 15 (x.checkErrors + 1) }
    let badKind := s.setPort p { x with rx := .hunt, unknownKinds := min 15 (x.unknownKinds + 1) }
    (s.hears p = true →
      (x.rx = .hunt → exec (.frameStart p ⟨0xA5, true⟩) s = .next (becomes (.kind s.now)) ∧
        (∀ b, b ≠ 0xA5 → exec (.frameStart p ⟨b, true⟩) s = .next s) ∧
        (∀ b, exec (.frameStart p ⟨b, false⟩) s = .next s)) ∧
      (x.rx ≠ .hunt → (∀ b, exec (.frameStart p ⟨b, false⟩) s = .next badCheck) ∧
        exec (.frameDiscarded p .missingStop) s = .next badCheck) ∧
      (∀ a b, x.rx = .kind a → exec (.frameStart p ⟨b, true⟩) s = .next (becomes (.length a b))) ∧
      (∀ a k b, x.rx = .length a k →
        (b.toNat ≤ 40 → exec (.frameStart p ⟨b, true⟩) s = .next (becomes (.body a k b.toNat []))) ∧
        (40 < b.toNat → exec (.frameStart p ⟨b, true⟩) s = .next badCheck)) ∧
      (∀ a k n held b, x.rx = .body a k n held → held.length + 1 < n + 2 →
        exec (.frameStart p ⟨b, true⟩) s = .next (becomes (.body a k n (held ++ [b])))) ∧
      (∀ b, 40 < b.toNat → exec (.frameDiscarded p (.lengthByte b)) s = .next badCheck) ∧
      (∀ k payload check,
        (check ≠ frameCheck k payload → exec (.frameDiscarded p (.complete k payload check)) s = .next badCheck) ∧
        (check = frameCheck k payload → (∀ q : ReqKind, q.code = k → q.onPort p = false) →
          exec (.frameDiscarded p (.complete k payload check)) s = .next badKind) ∧
        (∀ q : ReqKind, check = frameCheck k payload → q.code = k → q.onPort p = true →
          payload.length ≠ q.length →
          exec (.frameDiscarded p (.complete k payload check)) s = .next badCheck)) ∧
      (∀ a k payload hi lo, x.rx = .body a k payload.length (payload ++ [hi]) →
        let last := exec (.frameStart p ⟨lo, true⟩) s
        let agrees := (hi ++ lo : BitVec 16) = frameCheck k payload
        (¬agrees → last = .next badCheck) ∧
        (agrees → (∀ q : ReqKind, q.code = k → q.onPort p = false) → last = .next badKind) ∧
        (∀ q : ReqKind, agrees → q.code = k → q.onPort p = true → payload.length ≠ q.length → last = .next badCheck) ∧
        (∀ i q, agrees → q.code = k → requestParts i = some (p, q, payload) → last = exec i (becomes .hunt)))) ∧
    (s.inReset = false → x.tx ≠ none →
      let lost := fun (starts : List Time) (rx : Rx) => s.setPort p { x with lost := starts, lostRx := rx }
      let byteLost := fun (b : RxByte) (starts : List Time) (rx : Rx) =>
        exec (.frameStart p b) s = .next (lost starts rx)
      (∀ i k payload, requestParts i = some (p, k, payload) →
        exec i s = .next (lost (x.lost ++ [s.now]) x.lostRx)) ∧
      (x.lostRx = .hunt → byteLost ⟨0xA5, true⟩ (x.lost ++ [s.now]) (.kind s.now) ∧
        ∀ b, b ≠ 0xA5 → byteLost ⟨b, true⟩ x.lost .hunt) ∧
      (∀ b, byteLost ⟨b, false⟩ x.lost .hunt) ∧
      (∀ a b, x.lostRx = .kind a → byteLost ⟨b, true⟩ x.lost (.length a b)) ∧
      (∀ a k b, x.lostRx = .length a k →
        byteLost ⟨b, true⟩ x.lost (if b.toNat ≤ 40 then .body a k b.toNat [] else .hunt)) ∧
      (∀ a k n held b, x.lostRx = .body a k n held →
        byteLost ⟨b, true⟩ x.lost (if held.length + 1 < n + 2 then .body a k n (held ++ [b]) else .hunt))) ∧
    (∀ a, x.rx.start = some a → 50 ≤ (s.now - a).toNat → exec (.frameTimeout p) s = .next badCheck) ∧
    (∀ a rest, (∀ b, x.rx.start = some b → (s.now - b).toNat < 50) → x.lost = a :: rest → 50 ≤ (s.now - a).toNat →
      exec (.frameTimeout p) s = .next (s.setPort p { x with lost := rest, checkErrors := min 15 (x.checkErrors + 1) })) ∧
    exec (.answerSent p) s = .next (s.setPort p { x with tx := none, lostRx := .hunt })

/-- Frames and requests agree (R160, R163): the frame laid out for a request is examined and taken as that request on its
port, and a frame taken as a request is the one laid out for it. The kinds, ports and payload fields are those of the table
of R163, and the check value is the remainder that R160 describes, bit by bit. -/
def Obligations.RequestFramesRoundTrip : Prop :=
  (∀ i p k payload, requestParts i = some (p, k, payload) →
    k.onPort p = true ∧ payload.length = k.length ∧
      examine p k.code payload (frameCheck k.code payload) = .taken i) ∧
  (∀ p kind payload check i, examine p kind payload check = .taken i →
    check = frameCheck kind payload ∧ ∃ k, k.code = kind ∧ requestParts i = some (p, k, payload)) ∧
  (∀ k p, k.onPort p = true ↔ ∃ i payload, requestParts i = some (p, k, payload)) ∧
  (∀ kind payload, frameCheck kind payload =
    ((kind :: BitVec.ofNat 8 payload.length :: payload).flatMap
      fun b : Byte => (List.range 8).map fun i => b.getLsbD (7 - i)).foldl
        (fun (c : BitVec 16) (bit : Bool) => (c <<< 1) ^^^ (if c.msb != bit then 0x8005 else 0)) 0) ∧
  (∀ hi lo : Byte, split (hi ++ lo) = [hi, lo]) ∧
  ([ReqKind.join, .status, .raise, .cancel, .leave, .feedReport, .shed, .shedRelease].map ReqKind.code =
      [0x10, 0x11, 0x12, 0x13, 0x14, 0x20, 0x21, 0x22] ∧
    [ReqKind.setSpan, .setSpanCount, .setParam, .store, .run, .stop, .isoFrom, .isoTo, .isoApply, .restore, .clearFaults,
        .clearPhantom, .evict, .clearCounters, .warmReset].map ReqKind.code =
      [0x30, 0x31, 0x32, 0x33, 0x34, 0x35, 0x36, 0x37, 0x38, 0x39, 0x3A, 0x3B, 0x3C, 0x3D, 0x3E] ∧
    [ReqKind.querySection, .queryTrucks, .queryLine, .queryFeeds, .querySpans, .queryGrants].map ReqKind.code =
      [0x40, 0x41, 0x42, 0x43, 0x44, 0x45]) ∧
  ∀ (a b : Byte) (w x y z : U16),
    let lays := fun (p : Port) (i : Instr) (k : ReqKind) (payload : List Byte) => requestParts i = some (p, k, payload)
    let onTruck := lays .truck
    let onDispatch := lays .dispatch
    onTruck (.join w) .join (split w) ∧
    onTruck (.status a w b x y z) .status ([a] ++ split w ++ [b] ++ split x ++ split y ++ split z) ∧
    onTruck (.raise a w b x y) .raise ([a] ++ split w ++ [b] ++ split x ++ split y) ∧
    onTruck (.cancel a w) .cancel ([a] ++ split w) ∧ onTruck (.leave a w) .leave ([a] ++ split w) ∧
    (∀ f p, (f, p) ∈ [(Feed.a, Port.feedA), (Feed.b, Port.feedB)] →
      lays p (.feedReport f a w x b y) .feedReport ([a] ++ split w ++ split x ++ [b] ++ split y) ∧
      lays p (.shed f w) .shed (split w) ∧ lays p (.shedRelease f) .shedRelease []) ∧
    onDispatch (.setSpan a w b) .setSpan ([a] ++ split w ++ [b]) ∧ onDispatch (.setSpanCount a) .setSpanCount [a] ∧
    onDispatch (.setParam a w) .setParam ([a] ++ split w) ∧ onDispatch .store .store [] ∧ onDispatch .run .run [] ∧
    onDispatch .stop .stop [] ∧ onDispatch (.isoFrom a) .isoFrom [a] ∧ onDispatch (.isoTo a) .isoTo [a] ∧
    onDispatch .isoApply .isoApply [] ∧ onDispatch (.restore a b) .restore [a, b] ∧
    onDispatch .clearFaults .clearFaults [] ∧ onDispatch (.clearPhantom a) .clearPhantom [a] ∧
    onDispatch (.evict a) .evict [a] ∧ onDispatch .clearCounters .clearCounters [] ∧
    onDispatch .warmReset .warmReset [] ∧ onDispatch (.querySection a) .querySection [a] ∧
    onDispatch (.queryTrucks a) .queryTrucks [a] ∧ onDispatch (.queryLine a) .queryLine [a] ∧
    onDispatch (.queryFeeds a) .queryFeeds [a] ∧ onDispatch (.querySpans a) .querySpans [a] ∧
    onDispatch (.queryGrants a) .queryGrants [a]

/-- A request's frame received byte by byte on its idle port has the effect of the request itself, and so on a port that
sends, where it is lost (R158 to R160, R163; that the bytes after the start byte come by the same command is log 8, how a
lost request is kept log 31). -/
def Obligations.FrameReceptionIsRequest : Prop :=
  ∀ (s : State) (i : Instr) (p : Port) (k : ReqKind) (payload : List Byte),
    requestParts i = some (p, k, payload) →
    (s.hears p = true ∧ (s.port p).rx = .hunt) ∨
      (s.inReset = false ∧ (s.port p).tx ≠ none ∧ (s.port p).lostRx = .hunt) →
    exec i s = .next (s.receive p
      (0xA5 :: k.code :: byte payload.length :: payload ++ split (frameCheck k.code payload)))

/-! ### What every state keeps -/

/-- The state after reset meets every promise, and its parameters are the defaults of R7. -/
def Obligations.ResetMeetsEveryPromise : Prop :=
  State.reset.RangesHold ∧ State.reset.PlacesHold ∧ State.reset.SectionHolds ∧ State.reset.OneRaisePending ∧
    (List.range 23).map (fun i => State.reset.params.get (i + 1)) =
      [2000, 1000, 100, 500, 3000, 3000, 1000, 1000, 4000, 120, 60, 10, 500, 2000, 300, 5000, 1500, 300, 40, 20, 30,
        1200, 3000] ∧
    State.reset.stored.passes = false

/-- Every range is kept: the configuration's (R1, R4, R7 to R9), the counters' (R161), the truck records' currents, every
issued limit being a multiple of 50 A from 0 to 3,000 A (R58, R132). -/
def Obligations.StepKeepsRanges : Prop :=
  ∀ s t : State, s.RangesHold → step s = .next t → t.RangesHold

/-- The truck table, the line order and the raise queue go on agreeing: a slot has exactly one entry in the line order
exactly in a line-order state (R59) and one in the queue exactly when QUEUED (R102), no two occupied slots hold one fleet
number (R61), and the line order stands in order with at most four phantoms (R80). So it has at most 16 entries. -/
def Obligations.StepKeepsPlaces : Prop :=
  (∀ s t : State, s.PlacesHold → step s = .next t → t.PlacesHold) ∧
    ∀ s : State, s.PlacesHold → s.line.length ≤ 16 ∧ s.queue.length ≤ 12

/-- What the section state and the resets promise is kept: a limit is issued only to a truck in RAISE_PENDING, DRAWING or
SILENT (R68, R114), outside RUNNING to none, and the queue is empty there (R148); while a reset is in progress every block
holds its reset values (R157); entries and requests stand on spans of the section (R80, R102), and a PENDING_BAR span has
an entry on it (R143); outside a cold reset the section is UNCONFIGURED exactly while the configuration is invalid and the
derived resistances are the configuration's (R5, R6, R148); a range held by the isolation sequence lies in the section
(R141). -/
def Obligations.StepKeepsSection : Prop :=
  ∀ s t : State, s.SectionHolds → s.ConfigInRange → step s = .next t → t.SectionHolds

/-- At most one truck is in RAISE_PENDING at any time (R109). -/
def Obligations.StepKeepsOneRaisePending : Prop :=
  ∀ s t : State, s.OneRaisePending → step s = .next t → t.OneRaisePending
end

