-- ==== Sys2Proof/Laws/State.lean ====
section
/-! SUPPORT. One lemma per field of State and update of Machine/Ops.lean: what each update writes, and that it leaves
every other field alone. -/

namespace Sys2Proof.Machine

variable (s : State)

/-! ### setTruck -/

@[simp] theorem State.setTruck_pending (k : Slot) (t : Truck) : (s.setTruck k t).pending = s.pending := rfl
@[simp] theorem State.setTruck_choice (k : Slot) (t : Truck) : (s.setTruck k t).choice = s.choice := rfl
@[simp] theorem State.setTruck_now (k : Slot) (t : Truck) : (s.setTruck k t).now = s.now := rfl
@[simp] theorem State.setTruck_sect (k : Slot) (t : Truck) : (s.setTruck k t).sect = s.sect := rfl
@[simp] theorem State.setTruck_faults (k : Slot) (t : Truck) : (s.setTruck k t).faults = s.faults := rfl
@[simp] theorem State.setTruck_events (k : Slot) (t : Truck) : (s.setTruck k t).events = s.events := rfl
@[simp] theorem State.setTruck_phantomCount (k : Slot) (t : Truck) : (s.setTruck k t).phantomCount = s.phantomCount := rfl
@[simp] theorem State.setTruck_coldReset (k : Slot) (t : Truck) : (s.setTruck k t).coldReset = s.coldReset := rfl
@[simp] theorem State.setTruck_warmHold (k : Slot) (t : Truck) : (s.setTruck k t).warmHold = s.warmHold := rfl
@[simp] theorem State.setTruck_warmPin (k : Slot) (t : Truck) : (s.setTruck k t).warmPin = s.warmPin := rfl
@[simp] theorem State.setTruck_warmAsked (k : Slot) (t : Truck) : (s.setTruck k t).warmAsked = s.warmAsked := rfl
@[simp] theorem State.setTruck_det (k : Slot) (t : Truck) : (s.setTruck k t).det = s.det := rfl
@[simp] theorem State.setTruck_spanCount (k : Slot) (t : Truck) : (s.setTruck k t).spanCount = s.spanCount := rfl
@[simp] theorem State.setTruck_spans (k : Slot) (t : Truck) : (s.setTruck k t).spans = s.spans := rfl
@[simp] theorem State.setTruck_params (k : Slot) (t : Truck) : (s.setTruck k t).params = s.params := rfl
@[simp] theorem State.setTruck_derived (k : Slot) (t : Truck) : (s.setTruck k t).derived = s.derived := rfl
@[simp] theorem State.setTruck_stored (k : Slot) (t : Truck) : (s.setTruck k t).stored = s.stored := rfl
@[simp] theorem State.setTruck_store (k : Slot) (t : Truck) : (s.setTruck k t).store = s.store := rfl
@[simp] theorem State.setTruck_feedA (k : Slot) (t : Truck) : (s.setTruck k t).feedA = s.feedA := rfl
@[simp] theorem State.setTruck_feedB (k : Slot) (t : Truck) : (s.setTruck k t).feedB = s.feedB := rfl
@[simp] theorem State.setTruck_shareTime (k : Slot) (t : Truck) : (s.setTruck k t).shareTime = s.shareTime := rfl
@[simp] theorem State.setTruck_line (k : Slot) (t : Truck) : (s.setTruck k t).line = s.line := rfl
@[simp] theorem State.setTruck_channels (k : Slot) (t : Truck) : (s.setTruck k t).channels = s.channels := rfl
@[simp] theorem State.setTruck_queue (k : Slot) (t : Truck) : (s.setTruck k t).queue = s.queue := rfl
@[simp] theorem State.setTruck_spacing (k : Slot) (t : Truck) : (s.setTruck k t).spacing = s.spacing := rfl
@[simp] theorem State.setTruck_cycle (k : Slot) (t : Truck) : (s.setTruck k t).cycle = s.cycle := rfl
@[simp] theorem State.setTruck_inFlight (k : Slot) (t : Truck) : (s.setTruck k t).inFlight = s.inFlight := rfl
@[simp] theorem State.setTruck_grants (k : Slot) (t : Truck) : (s.setTruck k t).grants = s.grants := rfl
@[simp] theorem State.setTruck_spanStates (k : Slot) (t : Truck) : (s.setTruck k t).spanStates = s.spanStates := rfl
@[simp] theorem State.setTruck_isoSeq (k : Slot) (t : Truck) : (s.setTruck k t).isoSeq = s.isoSeq := rfl
@[simp] theorem State.setTruck_truckPort (k : Slot) (t : Truck) : (s.setTruck k t).truckPort = s.truckPort := rfl
@[simp] theorem State.setTruck_feedPortA (k : Slot) (t : Truck) : (s.setTruck k t).feedPortA = s.feedPortA := rfl
@[simp] theorem State.setTruck_feedPortB (k : Slot) (t : Truck) : (s.setTruck k t).feedPortB = s.feedPortB := rfl
@[simp] theorem State.setTruck_dispatchPort (k : Slot) (t : Truck) : (s.setTruck k t).dispatchPort = s.dispatchPort := rfl

/-! ### setChannel -/

@[simp] theorem State.setChannel_pending (j : Joint) (c : Channel) : (s.setChannel j c).pending = s.pending := rfl
@[simp] theorem State.setChannel_choice (j : Joint) (c : Channel) : (s.setChannel j c).choice = s.choice := rfl
@[simp] theorem State.setChannel_now (j : Joint) (c : Channel) : (s.setChannel j c).now = s.now := rfl
@[simp] theorem State.setChannel_sect (j : Joint) (c : Channel) : (s.setChannel j c).sect = s.sect := rfl
@[simp] theorem State.setChannel_faults (j : Joint) (c : Channel) : (s.setChannel j c).faults = s.faults := rfl
@[simp] theorem State.setChannel_events (j : Joint) (c : Channel) : (s.setChannel j c).events = s.events := rfl
@[simp] theorem State.setChannel_phantomCount (j : Joint) (c : Channel) : (s.setChannel j c).phantomCount = s.phantomCount := rfl
@[simp] theorem State.setChannel_coldReset (j : Joint) (c : Channel) : (s.setChannel j c).coldReset = s.coldReset := rfl
@[simp] theorem State.setChannel_warmHold (j : Joint) (c : Channel) : (s.setChannel j c).warmHold = s.warmHold := rfl
@[simp] theorem State.setChannel_warmPin (j : Joint) (c : Channel) : (s.setChannel j c).warmPin = s.warmPin := rfl
@[simp] theorem State.setChannel_warmAsked (j : Joint) (c : Channel) : (s.setChannel j c).warmAsked = s.warmAsked := rfl
@[simp] theorem State.setChannel_det (j : Joint) (c : Channel) : (s.setChannel j c).det = s.det := rfl
@[simp] theorem State.setChannel_spanCount (j : Joint) (c : Channel) : (s.setChannel j c).spanCount = s.spanCount := rfl
@[simp] theorem State.setChannel_spans (j : Joint) (c : Channel) : (s.setChannel j c).spans = s.spans := rfl
@[simp] theorem State.setChannel_params (j : Joint) (c : Channel) : (s.setChannel j c).params = s.params := rfl
@[simp] theorem State.setChannel_derived (j : Joint) (c : Channel) : (s.setChannel j c).derived = s.derived := rfl
@[simp] theorem State.setChannel_stored (j : Joint) (c : Channel) : (s.setChannel j c).stored = s.stored := rfl
@[simp] theorem State.setChannel_store (j : Joint) (c : Channel) : (s.setChannel j c).store = s.store := rfl
@[simp] theorem State.setChannel_feedA (j : Joint) (c : Channel) : (s.setChannel j c).feedA = s.feedA := rfl
@[simp] theorem State.setChannel_feedB (j : Joint) (c : Channel) : (s.setChannel j c).feedB = s.feedB := rfl
@[simp] theorem State.setChannel_shareTime (j : Joint) (c : Channel) : (s.setChannel j c).shareTime = s.shareTime := rfl
@[simp] theorem State.setChannel_trucks (j : Joint) (c : Channel) : (s.setChannel j c).trucks = s.trucks := rfl
@[simp] theorem State.setChannel_line (j : Joint) (c : Channel) : (s.setChannel j c).line = s.line := rfl
@[simp] theorem State.setChannel_queue (j : Joint) (c : Channel) : (s.setChannel j c).queue = s.queue := rfl
@[simp] theorem State.setChannel_spacing (j : Joint) (c : Channel) : (s.setChannel j c).spacing = s.spacing := rfl
@[simp] theorem State.setChannel_cycle (j : Joint) (c : Channel) : (s.setChannel j c).cycle = s.cycle := rfl
@[simp] theorem State.setChannel_inFlight (j : Joint) (c : Channel) : (s.setChannel j c).inFlight = s.inFlight := rfl
@[simp] theorem State.setChannel_grants (j : Joint) (c : Channel) : (s.setChannel j c).grants = s.grants := rfl
@[simp] theorem State.setChannel_spanStates (j : Joint) (c : Channel) : (s.setChannel j c).spanStates = s.spanStates := rfl
@[simp] theorem State.setChannel_isoSeq (j : Joint) (c : Channel) : (s.setChannel j c).isoSeq = s.isoSeq := rfl
@[simp] theorem State.setChannel_truckPort (j : Joint) (c : Channel) : (s.setChannel j c).truckPort = s.truckPort := rfl
@[simp] theorem State.setChannel_feedPortA (j : Joint) (c : Channel) : (s.setChannel j c).feedPortA = s.feedPortA := rfl
@[simp] theorem State.setChannel_feedPortB (j : Joint) (c : Channel) : (s.setChannel j c).feedPortB = s.feedPortB := rfl
@[simp] theorem State.setChannel_dispatchPort (j : Joint) (c : Channel) : (s.setChannel j c).dispatchPort = s.dispatchPort := rfl

/-! ### setDet -/

@[simp] theorem State.setDet_pending (j : Joint) (b : Bool) : (s.setDet j b).pending = s.pending := rfl
@[simp] theorem State.setDet_choice (j : Joint) (b : Bool) : (s.setDet j b).choice = s.choice := rfl
@[simp] theorem State.setDet_now (j : Joint) (b : Bool) : (s.setDet j b).now = s.now := rfl
@[simp] theorem State.setDet_sect (j : Joint) (b : Bool) : (s.setDet j b).sect = s.sect := rfl
@[simp] theorem State.setDet_faults (j : Joint) (b : Bool) : (s.setDet j b).faults = s.faults := rfl
@[simp] theorem State.setDet_events (j : Joint) (b : Bool) : (s.setDet j b).events = s.events := rfl
@[simp] theorem State.setDet_phantomCount (j : Joint) (b : Bool) : (s.setDet j b).phantomCount = s.phantomCount := rfl
@[simp] theorem State.setDet_coldReset (j : Joint) (b : Bool) : (s.setDet j b).coldReset = s.coldReset := rfl
@[simp] theorem State.setDet_warmHold (j : Joint) (b : Bool) : (s.setDet j b).warmHold = s.warmHold := rfl
@[simp] theorem State.setDet_warmPin (j : Joint) (b : Bool) : (s.setDet j b).warmPin = s.warmPin := rfl
@[simp] theorem State.setDet_warmAsked (j : Joint) (b : Bool) : (s.setDet j b).warmAsked = s.warmAsked := rfl
@[simp] theorem State.setDet_spanCount (j : Joint) (b : Bool) : (s.setDet j b).spanCount = s.spanCount := rfl
@[simp] theorem State.setDet_spans (j : Joint) (b : Bool) : (s.setDet j b).spans = s.spans := rfl
@[simp] theorem State.setDet_params (j : Joint) (b : Bool) : (s.setDet j b).params = s.params := rfl
@[simp] theorem State.setDet_derived (j : Joint) (b : Bool) : (s.setDet j b).derived = s.derived := rfl
@[simp] theorem State.setDet_stored (j : Joint) (b : Bool) : (s.setDet j b).stored = s.stored := rfl
@[simp] theorem State.setDet_store (j : Joint) (b : Bool) : (s.setDet j b).store = s.store := rfl
@[simp] theorem State.setDet_feedA (j : Joint) (b : Bool) : (s.setDet j b).feedA = s.feedA := rfl
@[simp] theorem State.setDet_feedB (j : Joint) (b : Bool) : (s.setDet j b).feedB = s.feedB := rfl
@[simp] theorem State.setDet_shareTime (j : Joint) (b : Bool) : (s.setDet j b).shareTime = s.shareTime := rfl
@[simp] theorem State.setDet_trucks (j : Joint) (b : Bool) : (s.setDet j b).trucks = s.trucks := rfl
@[simp] theorem State.setDet_line (j : Joint) (b : Bool) : (s.setDet j b).line = s.line := rfl
@[simp] theorem State.setDet_channels (j : Joint) (b : Bool) : (s.setDet j b).channels = s.channels := rfl
@[simp] theorem State.setDet_queue (j : Joint) (b : Bool) : (s.setDet j b).queue = s.queue := rfl
@[simp] theorem State.setDet_spacing (j : Joint) (b : Bool) : (s.setDet j b).spacing = s.spacing := rfl
@[simp] theorem State.setDet_cycle (j : Joint) (b : Bool) : (s.setDet j b).cycle = s.cycle := rfl
@[simp] theorem State.setDet_inFlight (j : Joint) (b : Bool) : (s.setDet j b).inFlight = s.inFlight := rfl
@[simp] theorem State.setDet_grants (j : Joint) (b : Bool) : (s.setDet j b).grants = s.grants := rfl
@[simp] theorem State.setDet_spanStates (j : Joint) (b : Bool) : (s.setDet j b).spanStates = s.spanStates := rfl
@[simp] theorem State.setDet_isoSeq (j : Joint) (b : Bool) : (s.setDet j b).isoSeq = s.isoSeq := rfl
@[simp] theorem State.setDet_truckPort (j : Joint) (b : Bool) : (s.setDet j b).truckPort = s.truckPort := rfl
@[simp] theorem State.setDet_feedPortA (j : Joint) (b : Bool) : (s.setDet j b).feedPortA = s.feedPortA := rfl
@[simp] theorem State.setDet_feedPortB (j : Joint) (b : Bool) : (s.setDet j b).feedPortB = s.feedPortB := rfl
@[simp] theorem State.setDet_dispatchPort (j : Joint) (b : Bool) : (s.setDet j b).dispatchPort = s.dispatchPort := rfl

/-! ### setSpanState -/

@[simp] theorem State.setSpanState_pending (i : Nat) (x : SpanState) : (s.setSpanState i x).pending = s.pending := rfl
@[simp] theorem State.setSpanState_choice (i : Nat) (x : SpanState) : (s.setSpanState i x).choice = s.choice := rfl
@[simp] theorem State.setSpanState_now (i : Nat) (x : SpanState) : (s.setSpanState i x).now = s.now := rfl
@[simp] theorem State.setSpanState_sect (i : Nat) (x : SpanState) : (s.setSpanState i x).sect = s.sect := rfl
@[simp] theorem State.setSpanState_faults (i : Nat) (x : SpanState) : (s.setSpanState i x).faults = s.faults := rfl
@[simp] theorem State.setSpanState_events (i : Nat) (x : SpanState) : (s.setSpanState i x).events = s.events := rfl
@[simp] theorem State.setSpanState_phantomCount (i : Nat) (x : SpanState) : (s.setSpanState i x).phantomCount = s.phantomCount := rfl
@[simp] theorem State.setSpanState_coldReset (i : Nat) (x : SpanState) : (s.setSpanState i x).coldReset = s.coldReset := rfl
@[simp] theorem State.setSpanState_warmHold (i : Nat) (x : SpanState) : (s.setSpanState i x).warmHold = s.warmHold := rfl
@[simp] theorem State.setSpanState_warmPin (i : Nat) (x : SpanState) : (s.setSpanState i x).warmPin = s.warmPin := rfl
@[simp] theorem State.setSpanState_warmAsked (i : Nat) (x : SpanState) : (s.setSpanState i x).warmAsked = s.warmAsked := rfl
@[simp] theorem State.setSpanState_det (i : Nat) (x : SpanState) : (s.setSpanState i x).det = s.det := rfl
@[simp] theorem State.setSpanState_spanCount (i : Nat) (x : SpanState) : (s.setSpanState i x).spanCount = s.spanCount := rfl
@[simp] theorem State.setSpanState_spans (i : Nat) (x : SpanState) : (s.setSpanState i x).spans = s.spans := rfl
@[simp] theorem State.setSpanState_params (i : Nat) (x : SpanState) : (s.setSpanState i x).params = s.params := rfl
@[simp] theorem State.setSpanState_derived (i : Nat) (x : SpanState) : (s.setSpanState i x).derived = s.derived := rfl
@[simp] theorem State.setSpanState_stored (i : Nat) (x : SpanState) : (s.setSpanState i x).stored = s.stored := rfl
@[simp] theorem State.setSpanState_store (i : Nat) (x : SpanState) : (s.setSpanState i x).store = s.store := rfl
@[simp] theorem State.setSpanState_feedA (i : Nat) (x : SpanState) : (s.setSpanState i x).feedA = s.feedA := rfl
@[simp] theorem State.setSpanState_feedB (i : Nat) (x : SpanState) : (s.setSpanState i x).feedB = s.feedB := rfl
@[simp] theorem State.setSpanState_shareTime (i : Nat) (x : SpanState) : (s.setSpanState i x).shareTime = s.shareTime := rfl
@[simp] theorem State.setSpanState_trucks (i : Nat) (x : SpanState) : (s.setSpanState i x).trucks = s.trucks := rfl
@[simp] theorem State.setSpanState_line (i : Nat) (x : SpanState) : (s.setSpanState i x).line = s.line := rfl
@[simp] theorem State.setSpanState_channels (i : Nat) (x : SpanState) : (s.setSpanState i x).channels = s.channels := rfl
@[simp] theorem State.setSpanState_queue (i : Nat) (x : SpanState) : (s.setSpanState i x).queue = s.queue := rfl
@[simp] theorem State.setSpanState_spacing (i : Nat) (x : SpanState) : (s.setSpanState i x).spacing = s.spacing := rfl
@[simp] theorem State.setSpanState_cycle (i : Nat) (x : SpanState) : (s.setSpanState i x).cycle = s.cycle := rfl
@[simp] theorem State.setSpanState_inFlight (i : Nat) (x : SpanState) : (s.setSpanState i x).inFlight = s.inFlight := rfl
@[simp] theorem State.setSpanState_grants (i : Nat) (x : SpanState) : (s.setSpanState i x).grants = s.grants := rfl
@[simp] theorem State.setSpanState_isoSeq (i : Nat) (x : SpanState) : (s.setSpanState i x).isoSeq = s.isoSeq := rfl
@[simp] theorem State.setSpanState_truckPort (i : Nat) (x : SpanState) : (s.setSpanState i x).truckPort = s.truckPort := rfl
@[simp] theorem State.setSpanState_feedPortA (i : Nat) (x : SpanState) : (s.setSpanState i x).feedPortA = s.feedPortA := rfl
@[simp] theorem State.setSpanState_feedPortB (i : Nat) (x : SpanState) : (s.setSpanState i x).feedPortB = s.feedPortB := rfl
@[simp] theorem State.setSpanState_dispatchPort (i : Nat) (x : SpanState) : (s.setSpanState i x).dispatchPort = s.dispatchPort := rfl

/-! ### putLine -/

@[simp] theorem State.putLine_pending (l : List Entry) : (s.putLine l).pending = s.pending := rfl
@[simp] theorem State.putLine_choice (l : List Entry) : (s.putLine l).choice = s.choice := rfl
@[simp] theorem State.putLine_now (l : List Entry) : (s.putLine l).now = s.now := rfl
@[simp] theorem State.putLine_sect (l : List Entry) : (s.putLine l).sect = s.sect := rfl
@[simp] theorem State.putLine_faults (l : List Entry) : (s.putLine l).faults = s.faults := rfl
@[simp] theorem State.putLine_events (l : List Entry) : (s.putLine l).events = s.events := rfl
@[simp] theorem State.putLine_coldReset (l : List Entry) : (s.putLine l).coldReset = s.coldReset := rfl
@[simp] theorem State.putLine_warmHold (l : List Entry) : (s.putLine l).warmHold = s.warmHold := rfl
@[simp] theorem State.putLine_warmPin (l : List Entry) : (s.putLine l).warmPin = s.warmPin := rfl
@[simp] theorem State.putLine_warmAsked (l : List Entry) : (s.putLine l).warmAsked = s.warmAsked := rfl
@[simp] theorem State.putLine_det (l : List Entry) : (s.putLine l).det = s.det := rfl
@[simp] theorem State.putLine_spanCount (l : List Entry) : (s.putLine l).spanCount = s.spanCount := rfl
@[simp] theorem State.putLine_spans (l : List Entry) : (s.putLine l).spans = s.spans := rfl
@[simp] theorem State.putLine_params (l : List Entry) : (s.putLine l).params = s.params := rfl
@[simp] theorem State.putLine_derived (l : List Entry) : (s.putLine l).derived = s.derived := rfl
@[simp] theorem State.putLine_stored (l : List Entry) : (s.putLine l).stored = s.stored := rfl
@[simp] theorem State.putLine_store (l : List Entry) : (s.putLine l).store = s.store := rfl
@[simp] theorem State.putLine_feedA (l : List Entry) : (s.putLine l).feedA = s.feedA := rfl
@[simp] theorem State.putLine_feedB (l : List Entry) : (s.putLine l).feedB = s.feedB := rfl
@[simp] theorem State.putLine_shareTime (l : List Entry) : (s.putLine l).shareTime = s.shareTime := rfl
@[simp] theorem State.putLine_trucks (l : List Entry) : (s.putLine l).trucks = s.trucks := rfl
@[simp] theorem State.putLine_channels (l : List Entry) : (s.putLine l).channels = s.channels := rfl
@[simp] theorem State.putLine_queue (l : List Entry) : (s.putLine l).queue = s.queue := rfl
@[simp] theorem State.putLine_spacing (l : List Entry) : (s.putLine l).spacing = s.spacing := rfl
@[simp] theorem State.putLine_cycle (l : List Entry) : (s.putLine l).cycle = s.cycle := rfl
@[simp] theorem State.putLine_inFlight (l : List Entry) : (s.putLine l).inFlight = s.inFlight := rfl
@[simp] theorem State.putLine_grants (l : List Entry) : (s.putLine l).grants = s.grants := rfl
@[simp] theorem State.putLine_spanStates (l : List Entry) : (s.putLine l).spanStates = s.spanStates := rfl
@[simp] theorem State.putLine_isoSeq (l : List Entry) : (s.putLine l).isoSeq = s.isoSeq := rfl
@[simp] theorem State.putLine_truckPort (l : List Entry) : (s.putLine l).truckPort = s.truckPort := rfl
@[simp] theorem State.putLine_feedPortA (l : List Entry) : (s.putLine l).feedPortA = s.feedPortA := rfl
@[simp] theorem State.putLine_feedPortB (l : List Entry) : (s.putLine l).feedPortB = s.feedPortB := rfl
@[simp] theorem State.putLine_dispatchPort (l : List Entry) : (s.putLine l).dispatchPort = s.dispatchPort := rfl

/-! ### spanGained -/

@[simp] theorem State.spanGained_pending (i : Nat) : (s.spanGained i).pending = s.pending := rfl
@[simp] theorem State.spanGained_choice (i : Nat) : (s.spanGained i).choice = s.choice := rfl
@[simp] theorem State.spanGained_now (i : Nat) : (s.spanGained i).now = s.now := rfl
@[simp] theorem State.spanGained_sect (i : Nat) : (s.spanGained i).sect = s.sect := rfl
@[simp] theorem State.spanGained_faults (i : Nat) : (s.spanGained i).faults = s.faults := rfl
@[simp] theorem State.spanGained_events (i : Nat) : (s.spanGained i).events = s.events := rfl
@[simp] theorem State.spanGained_phantomCount (i : Nat) : (s.spanGained i).phantomCount = s.phantomCount := rfl
@[simp] theorem State.spanGained_coldReset (i : Nat) : (s.spanGained i).coldReset = s.coldReset := rfl
@[simp] theorem State.spanGained_warmHold (i : Nat) : (s.spanGained i).warmHold = s.warmHold := rfl
@[simp] theorem State.spanGained_warmPin (i : Nat) : (s.spanGained i).warmPin = s.warmPin := rfl
@[simp] theorem State.spanGained_warmAsked (i : Nat) : (s.spanGained i).warmAsked = s.warmAsked := rfl
@[simp] theorem State.spanGained_det (i : Nat) : (s.spanGained i).det = s.det := rfl
@[simp] theorem State.spanGained_spanCount (i : Nat) : (s.spanGained i).spanCount = s.spanCount := rfl
@[simp] theorem State.spanGained_spans (i : Nat) : (s.spanGained i).spans = s.spans := rfl
@[simp] theorem State.spanGained_params (i : Nat) : (s.spanGained i).params = s.params := rfl
@[simp] theorem State.spanGained_derived (i : Nat) : (s.spanGained i).derived = s.derived := rfl
@[simp] theorem State.spanGained_stored (i : Nat) : (s.spanGained i).stored = s.stored := rfl
@[simp] theorem State.spanGained_store (i : Nat) : (s.spanGained i).store = s.store := rfl
@[simp] theorem State.spanGained_feedA (i : Nat) : (s.spanGained i).feedA = s.feedA := rfl
@[simp] theorem State.spanGained_feedB (i : Nat) : (s.spanGained i).feedB = s.feedB := rfl
@[simp] theorem State.spanGained_shareTime (i : Nat) : (s.spanGained i).shareTime = s.shareTime := rfl
@[simp] theorem State.spanGained_trucks (i : Nat) : (s.spanGained i).trucks = s.trucks := rfl
@[simp] theorem State.spanGained_line (i : Nat) : (s.spanGained i).line = s.line := rfl
@[simp] theorem State.spanGained_channels (i : Nat) : (s.spanGained i).channels = s.channels := rfl
@[simp] theorem State.spanGained_spacing (i : Nat) : (s.spanGained i).spacing = s.spacing := rfl
@[simp] theorem State.spanGained_cycle (i : Nat) : (s.spanGained i).cycle = s.cycle := rfl
@[simp] theorem State.spanGained_inFlight (i : Nat) : (s.spanGained i).inFlight = s.inFlight := rfl
@[simp] theorem State.spanGained_grants (i : Nat) : (s.spanGained i).grants = s.grants := rfl
@[simp] theorem State.spanGained_spanStates (i : Nat) : (s.spanGained i).spanStates = s.spanStates := rfl
@[simp] theorem State.spanGained_isoSeq (i : Nat) : (s.spanGained i).isoSeq = s.isoSeq := rfl
@[simp] theorem State.spanGained_truckPort (i : Nat) : (s.spanGained i).truckPort = s.truckPort := rfl
@[simp] theorem State.spanGained_feedPortA (i : Nat) : (s.spanGained i).feedPortA = s.feedPortA := rfl
@[simp] theorem State.spanGained_feedPortB (i : Nat) : (s.spanGained i).feedPortB = s.feedPortB := rfl
@[simp] theorem State.spanGained_dispatchPort (i : Nat) : (s.spanGained i).dispatchPort = s.dispatchPort := rfl

/-! ### setFaults -/

@[simp] theorem State.setFaults_pending (f : FaultFlags) : (s.setFaults f).pending = s.pending := rfl
@[simp] theorem State.setFaults_choice (f : FaultFlags) : (s.setFaults f).choice = s.choice := rfl
@[simp] theorem State.setFaults_now (f : FaultFlags) : (s.setFaults f).now = s.now := rfl
@[simp] theorem State.setFaults_sect (f : FaultFlags) : (s.setFaults f).sect = s.sect := rfl
@[simp] theorem State.setFaults_events (f : FaultFlags) : (s.setFaults f).events = s.events := rfl
@[simp] theorem State.setFaults_phantomCount (f : FaultFlags) : (s.setFaults f).phantomCount = s.phantomCount := rfl
@[simp] theorem State.setFaults_coldReset (f : FaultFlags) : (s.setFaults f).coldReset = s.coldReset := rfl
@[simp] theorem State.setFaults_warmHold (f : FaultFlags) : (s.setFaults f).warmHold = s.warmHold := rfl
@[simp] theorem State.setFaults_warmPin (f : FaultFlags) : (s.setFaults f).warmPin = s.warmPin := rfl
@[simp] theorem State.setFaults_warmAsked (f : FaultFlags) : (s.setFaults f).warmAsked = s.warmAsked := rfl
@[simp] theorem State.setFaults_det (f : FaultFlags) : (s.setFaults f).det = s.det := rfl
@[simp] theorem State.setFaults_spanCount (f : FaultFlags) : (s.setFaults f).spanCount = s.spanCount := rfl
@[simp] theorem State.setFaults_spans (f : FaultFlags) : (s.setFaults f).spans = s.spans := rfl
@[simp] theorem State.setFaults_params (f : FaultFlags) : (s.setFaults f).params = s.params := rfl
@[simp] theorem State.setFaults_derived (f : FaultFlags) : (s.setFaults f).derived = s.derived := rfl
@[simp] theorem State.setFaults_stored (f : FaultFlags) : (s.setFaults f).stored = s.stored := rfl
@[simp] theorem State.setFaults_store (f : FaultFlags) : (s.setFaults f).store = s.store := rfl
@[simp] theorem State.setFaults_feedA (f : FaultFlags) : (s.setFaults f).feedA = s.feedA := rfl
@[simp] theorem State.setFaults_feedB (f : FaultFlags) : (s.setFaults f).feedB = s.feedB := rfl
@[simp] theorem State.setFaults_shareTime (f : FaultFlags) : (s.setFaults f).shareTime = s.shareTime := rfl
@[simp] theorem State.setFaults_trucks (f : FaultFlags) : (s.setFaults f).trucks = s.trucks := rfl
@[simp] theorem State.setFaults_line (f : FaultFlags) : (s.setFaults f).line = s.line := rfl
@[simp] theorem State.setFaults_channels (f : FaultFlags) : (s.setFaults f).channels = s.channels := rfl
@[simp] theorem State.setFaults_queue (f : FaultFlags) : (s.setFaults f).queue = s.queue := rfl
@[simp] theorem State.setFaults_spacing (f : FaultFlags) : (s.setFaults f).spacing = s.spacing := rfl
@[simp] theorem State.setFaults_cycle (f : FaultFlags) : (s.setFaults f).cycle = s.cycle := rfl
@[simp] theorem State.setFaults_inFlight (f : FaultFlags) : (s.setFaults f).inFlight = s.inFlight := rfl
@[simp] theorem State.setFaults_grants (f : FaultFlags) : (s.setFaults f).grants = s.grants := rfl
@[simp] theorem State.setFaults_spanStates (f : FaultFlags) : (s.setFaults f).spanStates = s.spanStates := rfl
@[simp] theorem State.setFaults_isoSeq (f : FaultFlags) : (s.setFaults f).isoSeq = s.isoSeq := rfl
@[simp] theorem State.setFaults_truckPort (f : FaultFlags) : (s.setFaults f).truckPort = s.truckPort := rfl
@[simp] theorem State.setFaults_feedPortA (f : FaultFlags) : (s.setFaults f).feedPortA = s.feedPortA := rfl
@[simp] theorem State.setFaults_feedPortB (f : FaultFlags) : (s.setFaults f).feedPortB = s.feedPortB := rfl
@[simp] theorem State.setFaults_dispatchPort (f : FaultFlags) : (s.setFaults f).dispatchPort = s.dispatchPort := rfl

/-! ### setEvents -/

@[simp] theorem State.setEvents_pending (e : EventFlags) : (s.setEvents e).pending = s.pending := rfl
@[simp] theorem State.setEvents_choice (e : EventFlags) : (s.setEvents e).choice = s.choice := rfl
@[simp] theorem State.setEvents_now (e : EventFlags) : (s.setEvents e).now = s.now := rfl
@[simp] theorem State.setEvents_sect (e : EventFlags) : (s.setEvents e).sect = s.sect := rfl
@[simp] theorem State.setEvents_faults (e : EventFlags) : (s.setEvents e).faults = s.faults := rfl
@[simp] theorem State.setEvents_phantomCount (e : EventFlags) : (s.setEvents e).phantomCount = s.phantomCount := rfl
@[simp] theorem State.setEvents_coldReset (e : EventFlags) : (s.setEvents e).coldReset = s.coldReset := rfl
@[simp] theorem State.setEvents_warmHold (e : EventFlags) : (s.setEvents e).warmHold = s.warmHold := rfl
@[simp] theorem State.setEvents_warmPin (e : EventFlags) : (s.setEvents e).warmPin = s.warmPin := rfl
@[simp] theorem State.setEvents_warmAsked (e : EventFlags) : (s.setEvents e).warmAsked = s.warmAsked := rfl
@[simp] theorem State.setEvents_det (e : EventFlags) : (s.setEvents e).det = s.det := rfl
@[simp] theorem State.setEvents_spanCount (e : EventFlags) : (s.setEvents e).spanCount = s.spanCount := rfl
@[simp] theorem State.setEvents_spans (e : EventFlags) : (s.setEvents e).spans = s.spans := rfl
@[simp] theorem State.setEvents_params (e : EventFlags) : (s.setEvents e).params = s.params := rfl
@[simp] theorem State.setEvents_derived (e : EventFlags) : (s.setEvents e).derived = s.derived := rfl
@[simp] theorem State.setEvents_stored (e : EventFlags) : (s.setEvents e).stored = s.stored := rfl
@[simp] theorem State.setEvents_store (e : EventFlags) : (s.setEvents e).store = s.store := rfl
@[simp] theorem State.setEvents_feedA (e : EventFlags) : (s.setEvents e).feedA = s.feedA := rfl
@[simp] theorem State.setEvents_feedB (e : EventFlags) : (s.setEvents e).feedB = s.feedB := rfl
@[simp] theorem State.setEvents_shareTime (e : EventFlags) : (s.setEvents e).shareTime = s.shareTime := rfl
@[simp] theorem State.setEvents_trucks (e : EventFlags) : (s.setEvents e).trucks = s.trucks := rfl
@[simp] theorem State.setEvents_line (e : EventFlags) : (s.setEvents e).line = s.line := rfl
@[simp] theorem State.setEvents_channels (e : EventFlags) : (s.setEvents e).channels = s.channels := rfl
@[simp] theorem State.setEvents_queue (e : EventFlags) : (s.setEvents e).queue = s.queue := rfl
@[simp] theorem State.setEvents_spacing (e : EventFlags) : (s.setEvents e).spacing = s.spacing := rfl
@[simp] theorem State.setEvents_cycle (e : EventFlags) : (s.setEvents e).cycle = s.cycle := rfl
@[simp] theorem State.setEvents_inFlight (e : EventFlags) : (s.setEvents e).inFlight = s.inFlight := rfl
@[simp] theorem State.setEvents_grants (e : EventFlags) : (s.setEvents e).grants = s.grants := rfl
@[simp] theorem State.setEvents_spanStates (e : EventFlags) : (s.setEvents e).spanStates = s.spanStates := rfl
@[simp] theorem State.setEvents_isoSeq (e : EventFlags) : (s.setEvents e).isoSeq = s.isoSeq := rfl
@[simp] theorem State.setEvents_truckPort (e : EventFlags) : (s.setEvents e).truckPort = s.truckPort := rfl
@[simp] theorem State.setEvents_feedPortA (e : EventFlags) : (s.setEvents e).feedPortA = s.feedPortA := rfl
@[simp] theorem State.setEvents_feedPortB (e : EventFlags) : (s.setEvents e).feedPortB = s.feedPortB := rfl
@[simp] theorem State.setEvents_dispatchPort (e : EventFlags) : (s.setEvents e).dispatchPort = s.dispatchPort := rfl

/-! ### setSide -/

@[simp] theorem State.setSide_pending (f : Feed) (x : FeedSide) : (s.setSide f x).pending = s.pending := by cases f <;> rfl
@[simp] theorem State.setSide_choice (f : Feed) (x : FeedSide) : (s.setSide f x).choice = s.choice := by cases f <;> rfl
@[simp] theorem State.setSide_now (f : Feed) (x : FeedSide) : (s.setSide f x).now = s.now := by cases f <;> rfl
@[simp] theorem State.setSide_sect (f : Feed) (x : FeedSide) : (s.setSide f x).sect = s.sect := by cases f <;> rfl
@[simp] theorem State.setSide_faults (f : Feed) (x : FeedSide) : (s.setSide f x).faults = s.faults := by cases f <;> rfl
@[simp] theorem State.setSide_events (f : Feed) (x : FeedSide) : (s.setSide f x).events = s.events := by cases f <;> rfl
@[simp] theorem State.setSide_phantomCount (f : Feed) (x : FeedSide) : (s.setSide f x).phantomCount = s.phantomCount := by cases f <;> rfl
@[simp] theorem State.setSide_coldReset (f : Feed) (x : FeedSide) : (s.setSide f x).coldReset = s.coldReset := by cases f <;> rfl
@[simp] theorem State.setSide_warmHold (f : Feed) (x : FeedSide) : (s.setSide f x).warmHold = s.warmHold := by cases f <;> rfl
@[simp] theorem State.setSide_warmPin (f : Feed) (x : FeedSide) : (s.setSide f x).warmPin = s.warmPin := by cases f <;> rfl
@[simp] theorem State.setSide_warmAsked (f : Feed) (x : FeedSide) : (s.setSide f x).warmAsked = s.warmAsked := by cases f <;> rfl
@[simp] theorem State.setSide_det (f : Feed) (x : FeedSide) : (s.setSide f x).det = s.det := by cases f <;> rfl
@[simp] theorem State.setSide_spanCount (f : Feed) (x : FeedSide) : (s.setSide f x).spanCount = s.spanCount := by cases f <;> rfl
@[simp] theorem State.setSide_spans (f : Feed) (x : FeedSide) : (s.setSide f x).spans = s.spans := by cases f <;> rfl
@[simp] theorem State.setSide_params (f : Feed) (x : FeedSide) : (s.setSide f x).params = s.params := by cases f <;> rfl
@[simp] theorem State.setSide_derived (f : Feed) (x : FeedSide) : (s.setSide f x).derived = s.derived := by cases f <;> rfl
@[simp] theorem State.setSide_stored (f : Feed) (x : FeedSide) : (s.setSide f x).stored = s.stored := by cases f <;> rfl
@[simp] theorem State.setSide_store (f : Feed) (x : FeedSide) : (s.setSide f x).store = s.store := by cases f <;> rfl
@[simp] theorem State.setSide_shareTime (f : Feed) (x : FeedSide) : (s.setSide f x).shareTime = s.shareTime := by cases f <;> rfl
@[simp] theorem State.setSide_trucks (f : Feed) (x : FeedSide) : (s.setSide f x).trucks = s.trucks := by cases f <;> rfl
@[simp] theorem State.setSide_line (f : Feed) (x : FeedSide) : (s.setSide f x).line = s.line := by cases f <;> rfl
@[simp] theorem State.setSide_channels (f : Feed) (x : FeedSide) : (s.setSide f x).channels = s.channels := by cases f <;> rfl
@[simp] theorem State.setSide_queue (f : Feed) (x : FeedSide) : (s.setSide f x).queue = s.queue := by cases f <;> rfl
@[simp] theorem State.setSide_spacing (f : Feed) (x : FeedSide) : (s.setSide f x).spacing = s.spacing := by cases f <;> rfl
@[simp] theorem State.setSide_cycle (f : Feed) (x : FeedSide) : (s.setSide f x).cycle = s.cycle := by cases f <;> rfl
@[simp] theorem State.setSide_inFlight (f : Feed) (x : FeedSide) : (s.setSide f x).inFlight = s.inFlight := by cases f <;> rfl
@[simp] theorem State.setSide_grants (f : Feed) (x : FeedSide) : (s.setSide f x).grants = s.grants := by cases f <;> rfl
@[simp] theorem State.setSide_spanStates (f : Feed) (x : FeedSide) : (s.setSide f x).spanStates = s.spanStates := by cases f <;> rfl
@[simp] theorem State.setSide_isoSeq (f : Feed) (x : FeedSide) : (s.setSide f x).isoSeq = s.isoSeq := by cases f <;> rfl
@[simp] theorem State.setSide_truckPort (f : Feed) (x : FeedSide) : (s.setSide f x).truckPort = s.truckPort := by cases f <;> rfl
@[simp] theorem State.setSide_feedPortA (f : Feed) (x : FeedSide) : (s.setSide f x).feedPortA = s.feedPortA := by cases f <;> rfl
@[simp] theorem State.setSide_feedPortB (f : Feed) (x : FeedSide) : (s.setSide f x).feedPortB = s.feedPortB := by cases f <;> rfl
@[simp] theorem State.setSide_dispatchPort (f : Feed) (x : FeedSide) : (s.setSide f x).dispatchPort = s.dispatchPort := by cases f <;> rfl

/-! ### setPort -/

@[simp] theorem State.setPort_pending (p : Port) (x : PortState) : (s.setPort p x).pending = s.pending := by cases p <;> rfl
@[simp] theorem State.setPort_choice (p : Port) (x : PortState) : (s.setPort p x).choice = s.choice := by cases p <;> rfl
@[simp] theorem State.setPort_now (p : Port) (x : PortState) : (s.setPort p x).now = s.now := by cases p <;> rfl
@[simp] theorem State.setPort_sect (p : Port) (x : PortState) : (s.setPort p x).sect = s.sect := by cases p <;> rfl
@[simp] theorem State.setPort_faults (p : Port) (x : PortState) : (s.setPort p x).faults = s.faults := by cases p <;> rfl
@[simp] theorem State.setPort_events (p : Port) (x : PortState) : (s.setPort p x).events = s.events := by cases p <;> rfl
@[simp] theorem State.setPort_phantomCount (p : Port) (x : PortState) : (s.setPort p x).phantomCount = s.phantomCount := by cases p <;> rfl
@[simp] theorem State.setPort_coldReset (p : Port) (x : PortState) : (s.setPort p x).coldReset = s.coldReset := by cases p <;> rfl
@[simp] theorem State.setPort_warmHold (p : Port) (x : PortState) : (s.setPort p x).warmHold = s.warmHold := by cases p <;> rfl
@[simp] theorem State.setPort_warmPin (p : Port) (x : PortState) : (s.setPort p x).warmPin = s.warmPin := by cases p <;> rfl
@[simp] theorem State.setPort_warmAsked (p : Port) (x : PortState) : (s.setPort p x).warmAsked = s.warmAsked := by cases p <;> rfl
@[simp] theorem State.setPort_det (p : Port) (x : PortState) : (s.setPort p x).det = s.det := by cases p <;> rfl
@[simp] theorem State.setPort_spanCount (p : Port) (x : PortState) : (s.setPort p x).spanCount = s.spanCount := by cases p <;> rfl
@[simp] theorem State.setPort_spans (p : Port) (x : PortState) : (s.setPort p x).spans = s.spans := by cases p <;> rfl
@[simp] theorem State.setPort_params (p : Port) (x : PortState) : (s.setPort p x).params = s.params := by cases p <;> rfl
@[simp] theorem State.setPort_derived (p : Port) (x : PortState) : (s.setPort p x).derived = s.derived := by cases p <;> rfl
@[simp] theorem State.setPort_stored (p : Port) (x : PortState) : (s.setPort p x).stored = s.stored := by cases p <;> rfl
@[simp] theorem State.setPort_store (p : Port) (x : PortState) : (s.setPort p x).store = s.store := by cases p <;> rfl
@[simp] theorem State.setPort_feedA (p : Port) (x : PortState) : (s.setPort p x).feedA = s.feedA := by cases p <;> rfl
@[simp] theorem State.setPort_feedB (p : Port) (x : PortState) : (s.setPort p x).feedB = s.feedB := by cases p <;> rfl
@[simp] theorem State.setPort_shareTime (p : Port) (x : PortState) : (s.setPort p x).shareTime = s.shareTime := by cases p <;> rfl
@[simp] theorem State.setPort_trucks (p : Port) (x : PortState) : (s.setPort p x).trucks = s.trucks := by cases p <;> rfl
@[simp] theorem State.setPort_line (p : Port) (x : PortState) : (s.setPort p x).line = s.line := by cases p <;> rfl
@[simp] theorem State.setPort_channels (p : Port) (x : PortState) : (s.setPort p x).channels = s.channels := by cases p <;> rfl
@[simp] theorem State.setPort_queue (p : Port) (x : PortState) : (s.setPort p x).queue = s.queue := by cases p <;> rfl
@[simp] theorem State.setPort_spacing (p : Port) (x : PortState) : (s.setPort p x).spacing = s.spacing := by cases p <;> rfl
@[simp] theorem State.setPort_cycle (p : Port) (x : PortState) : (s.setPort p x).cycle = s.cycle := by cases p <;> rfl
@[simp] theorem State.setPort_inFlight (p : Port) (x : PortState) : (s.setPort p x).inFlight = s.inFlight := by cases p <;> rfl
@[simp] theorem State.setPort_grants (p : Port) (x : PortState) : (s.setPort p x).grants = s.grants := by cases p <;> rfl
@[simp] theorem State.setPort_spanStates (p : Port) (x : PortState) : (s.setPort p x).spanStates = s.spanStates := by cases p <;> rfl
@[simp] theorem State.setPort_isoSeq (p : Port) (x : PortState) : (s.setPort p x).isoSeq = s.isoSeq := by cases p <;> rfl

/-! ### What is written -/

@[simp] theorem State.putLine_line (l : List Entry) : (s.putLine l).line = l := rfl
@[simp] theorem State.putLine_phantomCount (l : List Entry) : (s.putLine l).phantomCount = phantomsIn l := rfl
@[simp] theorem State.spanGained_queue (i : Nat) : (s.spanGained i).queue = s.queue.map (QueueEntry.gained i) := rfl
@[simp] theorem QueueEntry.gained_slot (i : Nat) (e : QueueEntry) : (e.gained i).slot = e.slot := by
  unfold QueueEntry.gained; split <;> rfl
@[simp] theorem QueueEntry.gained_span (i : Nat) (e : QueueEntry) : (e.gained i).span = e.span := by
  unfold QueueEntry.gained; split <;> rfl
@[simp] theorem State.setFaults_faults (f : FaultFlags) : (s.setFaults f).faults = f := rfl
@[simp] theorem State.setEvents_events (e : EventFlags) : (s.setEvents e).events = e := rfl

theorem State.truck_def (k : Slot) : s.truck k = s.trucks[k] := rfl
theorem State.channel_def (j : Joint) : s.channel j = s.channels[j] := rfl

theorem State.truck_setTruck (k j : Slot) (t : Truck) :
    (s.setTruck k t).truck j = if j = k then t else s.truck j := by
  by_cases h : j = k
  · subst h; simp [State.truck, State.setTruck]
  · have h' : k.val ≠ j.val := fun h' => h (Fin.ext h'.symm)
    simp [State.truck, State.setTruck, h, h']

@[simp] theorem State.truck_setTruck_same (k : Slot) (t : Truck) : (s.setTruck k t).truck k = t := by
  simp [State.truck_setTruck]

theorem State.truck_setTruck_other {k j : Slot} (h : j ≠ k) (t : Truck) : (s.setTruck k t).truck j = s.truck j := by
  simp [State.truck_setTruck, h]

@[simp] theorem State.setTruck_setTruck (k : Slot) (t u : Truck) : (s.setTruck k t).setTruck k u = s.setTruck k u := by
  simp [State.setTruck]

@[simp] theorem State.setTruck_truck (k : Slot) : s.setTruck k (s.truck k) = s := by
  simp [State.setTruck, State.truck]

theorem State.channel_setChannel (k j : Joint) (c : Channel) :
    (s.setChannel k c).channel j = if j = k then c else s.channel j := by
  by_cases h : j = k
  · subst h; simp [State.channel, State.setChannel]
  · have h' : k.val ≠ j.val := fun h' => h (Fin.ext h'.symm)
    simp [State.channel, State.setChannel, h, h']

@[simp] theorem State.channel_setChannel_same (j : Joint) (c : Channel) : (s.setChannel j c).channel j = c := by
  simp [State.channel_setChannel]

@[simp] theorem State.setChannel_setChannel (j : Joint) (c d : Channel) :
    (s.setChannel j c).setChannel j d = s.setChannel j d := by
  simp [State.setChannel]

@[simp] theorem State.side_setSide_same (f : Feed) (x : FeedSide) : (s.setSide f x).side f = x := by cases f <;> rfl

@[simp] theorem State.setSide_setSide (f : Feed) (x y : FeedSide) : (s.setSide f x).setSide f y = s.setSide f y := by
  cases f <;> rfl

theorem State.side_setSide (f g : Feed) (x : FeedSide) : (s.setSide f x).side g = if g = f then x else s.side g := by
  cases f <;> cases g <;> rfl

@[simp] theorem State.port_setPort_same (p : Port) (x : PortState) : (s.setPort p x).port p = x := by cases p <;> rfl

@[simp] theorem State.setPort_setPort (p : Port) (x y : PortState) : (s.setPort p x).setPort p y = s.setPort p y := by
  cases p <;> rfl

@[simp] theorem State.setPort_port (p : Port) : s.setPort p (s.port p) = s := by cases p <;> rfl

theorem State.port_setPort (p q : Port) (x : PortState) : (s.setPort p x).port q = if q = p then x else s.port q := by
  cases p <;> cases q <;> rfl

theorem State.spanState_setSpanState (i j : Nat) (x : SpanState) :
    (s.setSpanState i x).spanState j = if j = i ∧ i < 16 then x else s.spanState j := by
  by_cases h : j = i
  · subst h
    by_cases h' : j < 16 <;> simp [State.spanState, State.setSpanState, h']
  · have h' : ¬i = j := fun e => h e.symm
    simp [State.spanState, State.setSpanState, h, h']

/-! ### Readers -/

@[simp] theorem State.channel_setTruck (k : Slot) (t : Truck) (q : Joint) : (s.setTruck k t).channel q = s.channel q := rfl
@[simp] theorem State.side_setTruck (k : Slot) (t : Truck) (q : Feed) : (s.setTruck k t).side q = s.side q := rfl
@[simp] theorem State.port_setTruck (k : Slot) (t : Truck) (q : Port) : (s.setTruck k t).port q = s.port q := rfl
@[simp] theorem State.spanState_setTruck (k : Slot) (t : Truck) (q : Nat) : (s.setTruck k t).spanState q = s.spanState q := rfl
@[simp] theorem State.spanRec_setTruck (k : Slot) (t : Truck) (q : Nat) : (s.setTruck k t).spanRec q = s.spanRec q := rfl
@[simp] theorem State.valid_setTruck (k : Slot) (t : Truck) : (s.setTruck k t).valid = s.valid := rfl
@[simp] theorem State.n_setTruck (k : Slot) (t : Truck) : (s.setTruck k t).n = s.n := rfl
@[simp] theorem State.inSection_setTruck (k : Slot) (t : Truck) (q : Nat) : (s.setTruck k t).inSection q = s.inSection q := rfl
@[simp] theorem State.computeNet_setTruck (k : Slot) (t : Truck) : (s.setTruck k t).computeNet = s.computeNet := rfl
@[simp] theorem State.feedMode_setTruck (k : Slot) (t : Truck) : (s.setTruck k t).feedMode = s.feedMode := rfl
@[simp] theorem State.vFeed_setTruck (k : Slot) (t : Truck) : (s.setTruck k t).vFeed = s.vFeed := rfl
@[simp] theorem State.capacityInUse_setTruck (k : Slot) (t : Truck) (q : Feed) : (s.setTruck k t).capacityInUse q = s.capacityInUse q := rfl
@[simp] theorem State.occupied_setTruck (k : Slot) (t : Truck) (q : Nat) : (s.setTruck k t).occupied q = s.occupied q := rfl
@[simp] theorem State.inReset_setTruck (k : Slot) (t : Truck) : (s.setTruck k t).inReset = s.inReset := rfl
@[simp] theorem State.isoBusy_setTruck (k : Slot) (t : Truck) : (s.setTruck k t).isoBusy = s.isoBusy := rfl
@[simp] theorem State.spanOfTruck_setTruck (k : Slot) (t : Truck) (q : Slot) : (s.setTruck k t).spanOfTruck q = s.spanOfTruck q := rfl

@[simp] theorem State.truck_setChannel (j : Joint) (c : Channel) (q : Slot) : (s.setChannel j c).truck q = s.truck q := rfl
@[simp] theorem State.side_setChannel (j : Joint) (c : Channel) (q : Feed) : (s.setChannel j c).side q = s.side q := rfl
@[simp] theorem State.port_setChannel (j : Joint) (c : Channel) (q : Port) : (s.setChannel j c).port q = s.port q := rfl
@[simp] theorem State.spanState_setChannel (j : Joint) (c : Channel) (q : Nat) : (s.setChannel j c).spanState q = s.spanState q := rfl
@[simp] theorem State.spanRec_setChannel (j : Joint) (c : Channel) (q : Nat) : (s.setChannel j c).spanRec q = s.spanRec q := rfl
@[simp] theorem State.valid_setChannel (j : Joint) (c : Channel) : (s.setChannel j c).valid = s.valid := rfl
@[simp] theorem State.n_setChannel (j : Joint) (c : Channel) : (s.setChannel j c).n = s.n := rfl
@[simp] theorem State.inSection_setChannel (j : Joint) (c : Channel) (q : Nat) : (s.setChannel j c).inSection q = s.inSection q := rfl
@[simp] theorem State.computeNet_setChannel (j : Joint) (c : Channel) : (s.setChannel j c).computeNet = s.computeNet := rfl
@[simp] theorem State.feedMode_setChannel (j : Joint) (c : Channel) : (s.setChannel j c).feedMode = s.feedMode := rfl
@[simp] theorem State.vFeed_setChannel (j : Joint) (c : Channel) : (s.setChannel j c).vFeed = s.vFeed := rfl
@[simp] theorem State.capacityInUse_setChannel (j : Joint) (c : Channel) (q : Feed) : (s.setChannel j c).capacityInUse q = s.capacityInUse q := rfl
@[simp] theorem State.occupied_setChannel (j : Joint) (c : Channel) (q : Nat) : (s.setChannel j c).occupied q = s.occupied q := rfl
@[simp] theorem State.inReset_setChannel (j : Joint) (c : Channel) : (s.setChannel j c).inReset = s.inReset := rfl
@[simp] theorem State.isoBusy_setChannel (j : Joint) (c : Channel) : (s.setChannel j c).isoBusy = s.isoBusy := rfl
@[simp] theorem State.spanOfTruck_setChannel (j : Joint) (c : Channel) (q : Slot) : (s.setChannel j c).spanOfTruck q = s.spanOfTruck q := rfl

@[simp] theorem State.truck_setDet (j : Joint) (b : Bool) (q : Slot) : (s.setDet j b).truck q = s.truck q := rfl
@[simp] theorem State.channel_setDet (j : Joint) (b : Bool) (q : Joint) : (s.setDet j b).channel q = s.channel q := rfl
@[simp] theorem State.side_setDet (j : Joint) (b : Bool) (q : Feed) : (s.setDet j b).side q = s.side q := rfl
@[simp] theorem State.port_setDet (j : Joint) (b : Bool) (q : Port) : (s.setDet j b).port q = s.port q := rfl
@[simp] theorem State.spanState_setDet (j : Joint) (b : Bool) (q : Nat) : (s.setDet j b).spanState q = s.spanState q := rfl
@[simp] theorem State.spanRec_setDet (j : Joint) (b : Bool) (q : Nat) : (s.setDet j b).spanRec q = s.spanRec q := rfl
@[simp] theorem State.valid_setDet (j : Joint) (b : Bool) : (s.setDet j b).valid = s.valid := rfl
@[simp] theorem State.n_setDet (j : Joint) (b : Bool) : (s.setDet j b).n = s.n := rfl
@[simp] theorem State.inSection_setDet (j : Joint) (b : Bool) (q : Nat) : (s.setDet j b).inSection q = s.inSection q := rfl
@[simp] theorem State.computeNet_setDet (j : Joint) (b : Bool) : (s.setDet j b).computeNet = s.computeNet := rfl
@[simp] theorem State.feedMode_setDet (j : Joint) (b : Bool) : (s.setDet j b).feedMode = s.feedMode := rfl
@[simp] theorem State.vFeed_setDet (j : Joint) (b : Bool) : (s.setDet j b).vFeed = s.vFeed := rfl
@[simp] theorem State.capacityInUse_setDet (j : Joint) (b : Bool) (q : Feed) : (s.setDet j b).capacityInUse q = s.capacityInUse q := rfl
@[simp] theorem State.occupied_setDet (j : Joint) (b : Bool) (q : Nat) : (s.setDet j b).occupied q = s.occupied q := rfl
@[simp] theorem State.inReset_setDet (j : Joint) (b : Bool) : (s.setDet j b).inReset = s.inReset := rfl
@[simp] theorem State.isoBusy_setDet (j : Joint) (b : Bool) : (s.setDet j b).isoBusy = s.isoBusy := rfl
@[simp] theorem State.spanOfTruck_setDet (j : Joint) (b : Bool) (q : Slot) : (s.setDet j b).spanOfTruck q = s.spanOfTruck q := rfl

@[simp] theorem State.truck_setSpanState (i : Nat) (x : SpanState) (q : Slot) : (s.setSpanState i x).truck q = s.truck q := rfl
@[simp] theorem State.channel_setSpanState (i : Nat) (x : SpanState) (q : Joint) : (s.setSpanState i x).channel q = s.channel q := rfl
@[simp] theorem State.side_setSpanState (i : Nat) (x : SpanState) (q : Feed) : (s.setSpanState i x).side q = s.side q := rfl
@[simp] theorem State.port_setSpanState (i : Nat) (x : SpanState) (q : Port) : (s.setSpanState i x).port q = s.port q := rfl
@[simp] theorem State.spanRec_setSpanState (i : Nat) (x : SpanState) (q : Nat) : (s.setSpanState i x).spanRec q = s.spanRec q := rfl
@[simp] theorem State.valid_setSpanState (i : Nat) (x : SpanState) : (s.setSpanState i x).valid = s.valid := rfl
@[simp] theorem State.n_setSpanState (i : Nat) (x : SpanState) : (s.setSpanState i x).n = s.n := rfl
@[simp] theorem State.inSection_setSpanState (i : Nat) (x : SpanState) (q : Nat) : (s.setSpanState i x).inSection q = s.inSection q := rfl
@[simp] theorem State.computeNet_setSpanState (i : Nat) (x : SpanState) : (s.setSpanState i x).computeNet = s.computeNet := rfl
@[simp] theorem State.feedMode_setSpanState (i : Nat) (x : SpanState) : (s.setSpanState i x).feedMode = s.feedMode := rfl
@[simp] theorem State.vFeed_setSpanState (i : Nat) (x : SpanState) : (s.setSpanState i x).vFeed = s.vFeed := rfl
@[simp] theorem State.capacityInUse_setSpanState (i : Nat) (x : SpanState) (q : Feed) : (s.setSpanState i x).capacityInUse q = s.capacityInUse q := rfl
@[simp] theorem State.occupied_setSpanState (i : Nat) (x : SpanState) (q : Nat) : (s.setSpanState i x).occupied q = s.occupied q := rfl
@[simp] theorem State.inReset_setSpanState (i : Nat) (x : SpanState) : (s.setSpanState i x).inReset = s.inReset := rfl
@[simp] theorem State.isoBusy_setSpanState (i : Nat) (x : SpanState) : (s.setSpanState i x).isoBusy = s.isoBusy := rfl
@[simp] theorem State.spanOfTruck_setSpanState (i : Nat) (x : SpanState) (q : Slot) : (s.setSpanState i x).spanOfTruck q = s.spanOfTruck q := rfl

@[simp] theorem State.truck_putLine (l : List Entry) (q : Slot) : (s.putLine l).truck q = s.truck q := rfl
@[simp] theorem State.channel_putLine (l : List Entry) (q : Joint) : (s.putLine l).channel q = s.channel q := rfl
@[simp] theorem State.side_putLine (l : List Entry) (q : Feed) : (s.putLine l).side q = s.side q := rfl
@[simp] theorem State.port_putLine (l : List Entry) (q : Port) : (s.putLine l).port q = s.port q := rfl
@[simp] theorem State.spanState_putLine (l : List Entry) (q : Nat) : (s.putLine l).spanState q = s.spanState q := rfl
@[simp] theorem State.spanRec_putLine (l : List Entry) (q : Nat) : (s.putLine l).spanRec q = s.spanRec q := rfl
@[simp] theorem State.valid_putLine (l : List Entry) : (s.putLine l).valid = s.valid := rfl
@[simp] theorem State.n_putLine (l : List Entry) : (s.putLine l).n = s.n := rfl
@[simp] theorem State.inSection_putLine (l : List Entry) (q : Nat) : (s.putLine l).inSection q = s.inSection q := rfl
@[simp] theorem State.computeNet_putLine (l : List Entry) : (s.putLine l).computeNet = s.computeNet := rfl
@[simp] theorem State.feedMode_putLine (l : List Entry) : (s.putLine l).feedMode = s.feedMode := rfl
@[simp] theorem State.vFeed_putLine (l : List Entry) : (s.putLine l).vFeed = s.vFeed := rfl
@[simp] theorem State.capacityInUse_putLine (l : List Entry) (q : Feed) : (s.putLine l).capacityInUse q = s.capacityInUse q := rfl
@[simp] theorem State.inReset_putLine (l : List Entry) : (s.putLine l).inReset = s.inReset := rfl
@[simp] theorem State.isoBusy_putLine (l : List Entry) : (s.putLine l).isoBusy = s.isoBusy := rfl

@[simp] theorem State.truck_spanGained (i : Nat) (q : Slot) : (s.spanGained i).truck q = s.truck q := rfl
@[simp] theorem State.channel_spanGained (i : Nat) (q : Joint) : (s.spanGained i).channel q = s.channel q := rfl
@[simp] theorem State.side_spanGained (i : Nat) (q : Feed) : (s.spanGained i).side q = s.side q := rfl
@[simp] theorem State.port_spanGained (i : Nat) (q : Port) : (s.spanGained i).port q = s.port q := rfl
@[simp] theorem State.spanState_spanGained (i : Nat) (q : Nat) : (s.spanGained i).spanState q = s.spanState q := rfl
@[simp] theorem State.spanRec_spanGained (i : Nat) (q : Nat) : (s.spanGained i).spanRec q = s.spanRec q := rfl
@[simp] theorem State.valid_spanGained (i : Nat) : (s.spanGained i).valid = s.valid := rfl
@[simp] theorem State.n_spanGained (i : Nat) : (s.spanGained i).n = s.n := rfl
@[simp] theorem State.inSection_spanGained (i : Nat) (q : Nat) : (s.spanGained i).inSection q = s.inSection q := rfl
@[simp] theorem State.computeNet_spanGained (i : Nat) : (s.spanGained i).computeNet = s.computeNet := rfl
@[simp] theorem State.feedMode_spanGained (i : Nat) : (s.spanGained i).feedMode = s.feedMode := rfl
@[simp] theorem State.vFeed_spanGained (i : Nat) : (s.spanGained i).vFeed = s.vFeed := rfl
@[simp] theorem State.capacityInUse_spanGained (i : Nat) (q : Feed) : (s.spanGained i).capacityInUse q = s.capacityInUse q := rfl
@[simp] theorem State.occupied_spanGained (i : Nat) (q : Nat) : (s.spanGained i).occupied q = s.occupied q := rfl
@[simp] theorem State.inReset_spanGained (i : Nat) : (s.spanGained i).inReset = s.inReset := rfl
@[simp] theorem State.isoBusy_spanGained (i : Nat) : (s.spanGained i).isoBusy = s.isoBusy := rfl
@[simp] theorem State.spanOfTruck_spanGained (i : Nat) (q : Slot) : (s.spanGained i).spanOfTruck q = s.spanOfTruck q := rfl

@[simp] theorem State.truck_setFaults (f : FaultFlags) (q : Slot) : (s.setFaults f).truck q = s.truck q := rfl
@[simp] theorem State.channel_setFaults (f : FaultFlags) (q : Joint) : (s.setFaults f).channel q = s.channel q := rfl
@[simp] theorem State.side_setFaults (f : FaultFlags) (q : Feed) : (s.setFaults f).side q = s.side q := rfl
@[simp] theorem State.port_setFaults (f : FaultFlags) (q : Port) : (s.setFaults f).port q = s.port q := rfl
@[simp] theorem State.spanState_setFaults (f : FaultFlags) (q : Nat) : (s.setFaults f).spanState q = s.spanState q := rfl
@[simp] theorem State.spanRec_setFaults (f : FaultFlags) (q : Nat) : (s.setFaults f).spanRec q = s.spanRec q := rfl
@[simp] theorem State.valid_setFaults (f : FaultFlags) : (s.setFaults f).valid = s.valid := rfl
@[simp] theorem State.n_setFaults (f : FaultFlags) : (s.setFaults f).n = s.n := rfl
@[simp] theorem State.inSection_setFaults (f : FaultFlags) (q : Nat) : (s.setFaults f).inSection q = s.inSection q := rfl
@[simp] theorem State.computeNet_setFaults (f : FaultFlags) : (s.setFaults f).computeNet = s.computeNet := rfl
@[simp] theorem State.feedMode_setFaults (f : FaultFlags) : (s.setFaults f).feedMode = s.feedMode := rfl
@[simp] theorem State.vFeed_setFaults (f : FaultFlags) : (s.setFaults f).vFeed = s.vFeed := rfl
@[simp] theorem State.capacityInUse_setFaults (f : FaultFlags) (q : Feed) : (s.setFaults f).capacityInUse q = s.capacityInUse q := rfl
@[simp] theorem State.occupied_setFaults (f : FaultFlags) (q : Nat) : (s.setFaults f).occupied q = s.occupied q := rfl
@[simp] theorem State.inReset_setFaults (f : FaultFlags) : (s.setFaults f).inReset = s.inReset := rfl
@[simp] theorem State.isoBusy_setFaults (f : FaultFlags) : (s.setFaults f).isoBusy = s.isoBusy := rfl
@[simp] theorem State.spanOfTruck_setFaults (f : FaultFlags) (q : Slot) : (s.setFaults f).spanOfTruck q = s.spanOfTruck q := rfl

@[simp] theorem State.truck_setEvents (e : EventFlags) (q : Slot) : (s.setEvents e).truck q = s.truck q := rfl
@[simp] theorem State.channel_setEvents (e : EventFlags) (q : Joint) : (s.setEvents e).channel q = s.channel q := rfl
@[simp] theorem State.side_setEvents (e : EventFlags) (q : Feed) : (s.setEvents e).side q = s.side q := rfl
@[simp] theorem State.port_setEvents (e : EventFlags) (q : Port) : (s.setEvents e).port q = s.port q := rfl
@[simp] theorem State.spanState_setEvents (e : EventFlags) (q : Nat) : (s.setEvents e).spanState q = s.spanState q := rfl
@[simp] theorem State.spanRec_setEvents (e : EventFlags) (q : Nat) : (s.setEvents e).spanRec q = s.spanRec q := rfl
@[simp] theorem State.valid_setEvents (e : EventFlags) : (s.setEvents e).valid = s.valid := rfl
@[simp] theorem State.n_setEvents (e : EventFlags) : (s.setEvents e).n = s.n := rfl
@[simp] theorem State.inSection_setEvents (e : EventFlags) (q : Nat) : (s.setEvents e).inSection q = s.inSection q := rfl
@[simp] theorem State.computeNet_setEvents (e : EventFlags) : (s.setEvents e).computeNet = s.computeNet := rfl
@[simp] theorem State.feedMode_setEvents (e : EventFlags) : (s.setEvents e).feedMode = s.feedMode := rfl
@[simp] theorem State.vFeed_setEvents (e : EventFlags) : (s.setEvents e).vFeed = s.vFeed := rfl
@[simp] theorem State.capacityInUse_setEvents (e : EventFlags) (q : Feed) : (s.setEvents e).capacityInUse q = s.capacityInUse q := rfl
@[simp] theorem State.occupied_setEvents (e : EventFlags) (q : Nat) : (s.setEvents e).occupied q = s.occupied q := rfl
@[simp] theorem State.inReset_setEvents (e : EventFlags) : (s.setEvents e).inReset = s.inReset := rfl
@[simp] theorem State.isoBusy_setEvents (e : EventFlags) : (s.setEvents e).isoBusy = s.isoBusy := rfl
@[simp] theorem State.spanOfTruck_setEvents (e : EventFlags) (q : Slot) : (s.setEvents e).spanOfTruck q = s.spanOfTruck q := rfl

@[simp] theorem State.truck_setSide (f : Feed) (x : FeedSide) (q : Slot) : (s.setSide f x).truck q = s.truck q := by cases f <;> rfl
@[simp] theorem State.channel_setSide (f : Feed) (x : FeedSide) (q : Joint) : (s.setSide f x).channel q = s.channel q := by cases f <;> rfl
@[simp] theorem State.port_setSide (f : Feed) (x : FeedSide) (q : Port) : (s.setSide f x).port q = s.port q := by cases f <;> rfl
@[simp] theorem State.spanState_setSide (f : Feed) (x : FeedSide) (q : Nat) : (s.setSide f x).spanState q = s.spanState q := by cases f <;> rfl
@[simp] theorem State.spanRec_setSide (f : Feed) (x : FeedSide) (q : Nat) : (s.setSide f x).spanRec q = s.spanRec q := by cases f <;> rfl
@[simp] theorem State.valid_setSide (f : Feed) (x : FeedSide) : (s.setSide f x).valid = s.valid := by cases f <;> rfl
@[simp] theorem State.n_setSide (f : Feed) (x : FeedSide) : (s.setSide f x).n = s.n := by cases f <;> rfl
@[simp] theorem State.inSection_setSide (f : Feed) (x : FeedSide) (q : Nat) : (s.setSide f x).inSection q = s.inSection q := by cases f <;> rfl
@[simp] theorem State.computeNet_setSide (f : Feed) (x : FeedSide) : (s.setSide f x).computeNet = s.computeNet := by cases f <;> rfl
@[simp] theorem State.occupied_setSide (f : Feed) (x : FeedSide) (q : Nat) : (s.setSide f x).occupied q = s.occupied q := by cases f <;> rfl
@[simp] theorem State.inReset_setSide (f : Feed) (x : FeedSide) : (s.setSide f x).inReset = s.inReset := by cases f <;> rfl
@[simp] theorem State.isoBusy_setSide (f : Feed) (x : FeedSide) : (s.setSide f x).isoBusy = s.isoBusy := by cases f <;> rfl
@[simp] theorem State.spanOfTruck_setSide (f : Feed) (x : FeedSide) (q : Slot) : (s.setSide f x).spanOfTruck q = s.spanOfTruck q := by cases f <;> rfl

@[simp] theorem State.truck_setPort (p : Port) (x : PortState) (q : Slot) : (s.setPort p x).truck q = s.truck q := by cases p <;> rfl
@[simp] theorem State.channel_setPort (p : Port) (x : PortState) (q : Joint) : (s.setPort p x).channel q = s.channel q := by cases p <;> rfl
@[simp] theorem State.side_setPort (p : Port) (x : PortState) (q : Feed) : (s.setPort p x).side q = s.side q := by cases p <;> rfl
@[simp] theorem State.spanState_setPort (p : Port) (x : PortState) (q : Nat) : (s.setPort p x).spanState q = s.spanState q := by cases p <;> rfl
@[simp] theorem State.spanRec_setPort (p : Port) (x : PortState) (q : Nat) : (s.setPort p x).spanRec q = s.spanRec q := by cases p <;> rfl
@[simp] theorem State.valid_setPort (p : Port) (x : PortState) : (s.setPort p x).valid = s.valid := by cases p <;> rfl
@[simp] theorem State.n_setPort (p : Port) (x : PortState) : (s.setPort p x).n = s.n := by cases p <;> rfl
@[simp] theorem State.inSection_setPort (p : Port) (x : PortState) (q : Nat) : (s.setPort p x).inSection q = s.inSection q := by cases p <;> rfl
@[simp] theorem State.computeNet_setPort (p : Port) (x : PortState) : (s.setPort p x).computeNet = s.computeNet := by cases p <;> rfl
@[simp] theorem State.feedMode_setPort (p : Port) (x : PortState) : (s.setPort p x).feedMode = s.feedMode := by cases p <;> rfl
@[simp] theorem State.vFeed_setPort (p : Port) (x : PortState) : (s.setPort p x).vFeed = s.vFeed := by cases p <;> rfl
@[simp] theorem State.capacityInUse_setPort (p : Port) (x : PortState) (q : Feed) : (s.setPort p x).capacityInUse q = s.capacityInUse q := by cases p <;> rfl
@[simp] theorem State.occupied_setPort (p : Port) (x : PortState) (q : Nat) : (s.setPort p x).occupied q = s.occupied q := by cases p <;> rfl
@[simp] theorem State.inReset_setPort (p : Port) (x : PortState) : (s.setPort p x).inReset = s.inReset := by cases p <;> rfl
@[simp] theorem State.isoBusy_setPort (p : Port) (x : PortState) : (s.setPort p x).isoBusy = s.isoBusy := by cases p <;> rfl
@[simp] theorem State.spanOfTruck_setPort (p : Port) (x : PortState) (q : Slot) : (s.setPort p x).spanOfTruck q = s.spanOfTruck q := by cases p <;> rfl

end Sys2Proof.Machine
end

