-- ==== Sys2Proof/Laws/Ops.lean ====
section
/-! SUPPORT. One lemma for each shared operation: what it does, once, for proofs to cite in place of its definition. -/

namespace Sys2Proof.Machine

/-! ### Fields and slots -/

/-- A slot field names a slot exactly when it is the slot's number. -/
theorem slotOf_eq_some {b : Byte} {k : Slot} : slotOf b = some k ↔ b.toNat = k.val + 1 := by
  have hk := k.isLt
  unfold slotOf
  split
  · rw [Option.some.injEq, Fin.ext_iff]
    show b.toNat - 1 = k.val ↔ _
    omega
  · constructor
    · intro h; cases h
    · intro h; omega

/-- A phantom number field names a phantom number exactly when it is that number. -/
theorem phantomNoOf_eq_some {b : Byte} {n : PhantomNo} : phantomNoOf b = some n ↔ b.toNat = n.val + 1 := by
  have hn := n.isLt
  unfold phantomNoOf
  split
  · rw [Option.some.injEq, Fin.ext_iff]
    show b.toNat - 1 = n.val ↔ _
    omega
  · constructor
    · intro h; cases h
    · intro h; omega

/-- A slot field that names no slot. -/
theorem slotOf_eq_none {b : Byte} : slotOf b = none ↔ b.toNat = 0 ∨ 12 < b.toNat := by
  unfold slotOf
  split
  · constructor
    · intro h; cases h
    · intro h; omega
  · simp; omega

theorem mem_allSlots (k : Slot) : k ∈ allSlots := by revert k; decide

theorem mem_allJoints (j : Joint) : j ∈ allJoints := by revert j; decide

theorem mem_allPhantomNos (n : PhantomNo) : n ∈ allPhantomNos := by revert n; decide

theorem allSlots_nodup : allSlots.Nodup := by decide

theorem allJoints_nodup : allJoints.Nodup := by decide

theorem allSlots_eq_finRange : allSlots = List.finRange 12 := by decide

theorem allSlots_split (k : Slot) : allSlots = allSlots.take k.val ++ k :: allSlots.drop (k.val + 1) := by
  revert k; decide

theorem lt_of_mem_take_allSlots (k : Slot) : ∀ j ∈ allSlots.take k.val, j < k := by revert k; decide

/-- The first slot that satisfies `p` is the lowest one. -/
theorem find_allSlots {p : Slot → Bool} {k : Slot} (h : p k = true) (below : ∀ j < k, p j = false) :
    allSlots.find? p = some k := by
  rw [List.find?_eq_some_iff_append]
  exact ⟨h, _, _, allSlots_split k, fun j hj => by simp [below j (lt_of_mem_take_allSlots k j hj)]⟩

theorem find_allSlots_none {p : Slot → Bool} (h : ∀ j, p j = false) : allSlots.find? p = none := by
  simp [List.find?_eq_none, h]

/-- The check of R60 passes: the field names the slot and the slot holds the fleet number. -/
theorem State.enrolled_eq_some {s : State} {slot : Byte} {f : U16} {k : Slot} (h : slot.toNat = k.val + 1)
    (hk : s.Holds k f) : s.enrolled slot f = some k := by
  simp [State.enrolled, slotOf_eq_some.2 h, hk.1, hk.2]

/-- The check of R60 fails: no slot that the field names holds the fleet number. -/
theorem State.enrolled_eq_none {s : State} {slot : Byte} {f : U16}
    (h : ∀ k : Slot, slot.toNat = k.val + 1 → ¬s.Holds k f) : s.enrolled slot f = none := by
  unfold State.enrolled
  cases hs : slotOf slot with
  | none => rfl
  | some k =>
    have hk := h k (slotOf_eq_some.1 hs)
    simp only [State.Holds] at hk
    simp only [ne_eq, hk, if_false]

/-! ### Requests and answers -/

/-- A request on a port that hears it: the rule's state with the rule's answer sent. -/
theorem State.request_of_hears {s : State} {p : Port} (rule : State → State × Answer) (h : s.hears p = true) :
    s.request p rule = (rule s).1.send p (rule s).2 := by
  simp [State.request, h]

/-- A port hears, or loses what comes while it sends, or is in a reset (R156 to R158). -/
theorem State.hears_of_loses {s : State} {p : Port} (h : s.loses p = true) : s.hears p = false := by
  unfold State.loses at h
  unfold State.hears
  cases hr : s.inReset <;> cases ht : (s.port p).tx <;> simp_all

/-- A request whose bytes are lost while the port sends is kept to run out of its time (R158). -/
theorem State.request_of_loses {s : State} {p : Port} (rule : State → State × Answer) (h : s.loses p = true) :
    s.request p rule = s.setPort p ((s.port p).lose s.now) := by
  simp [State.request, State.hears_of_loses h, h]

/-- In a reset a port takes no request (R156, R157). -/
theorem State.request_of_inReset {s : State} {p : Port} (rule : State → State × Answer) (h : s.inReset = true) :
    s.request p rule = s := by
  simp [State.request, State.hears, State.loses, h]

/-- Sending an answer is writing the port. -/
theorem State.send_eq (s : State) (p : Port) (a : Answer) :
    s.send p a = s.setPort p { s.port p with rx := .hunt, tx := some ⟨a, s.now⟩ } := rfl

/-! ### Truck transitions -/

theorem State.enterStandby_eq (s : State) (k : Slot) (holdoff : Option Time) :
    s.enterStandby k holdoff =
      s.setTruck k ((s.truck k).standby (after s.now (s.params.standbyIdle * 1000)) holdoff) := rfl

/-- A lower order to a RAISE_PENDING or DRAWING truck (R114). -/
theorem State.lowerOrder_of_up {s : State} {k : Slot}
    (h : (s.truck k).state = .raisePending ∨ (s.truck k).state = .drawing) :
    s.lowerOrder k = s.setTruck k { s.truck k with
      state := .lowering, throughout := false, issued := 0, raiseConfirm := none, cutAck := none
      lowerConfirm := some (after s.now s.params.lowerConfirm) } := by
  rcases h with h | h <;> simp [State.lowerOrder, h]

/-- A lower order to a SILENT truck (R114). -/
theorem State.lowerOrder_of_silent {s : State} {k : Slot} (h : (s.truck k).state = .silent) :
    s.lowerOrder k = s.setTruck k { s.truck k with issued := 0 } := by
  simp [State.lowerOrder, h]

/-- A lower order to any other truck changes nothing (R114). -/
theorem State.lowerOrder_of_other {s : State} {k : Slot} (h1 : (s.truck k).state ≠ .raisePending)
    (h2 : (s.truck k).state ≠ .drawing) (h3 : (s.truck k).state ≠ .silent) : s.lowerOrder k = s := by
  unfold State.lowerOrder
  cases h : (s.truck k).state <;> simp_all

/-- A lower order writes the truck's record alone. -/
theorem State.lowerOrder_frame (s : State) (k : Slot) : s.lowerOrder k = s.setTruck k ((s.lowerOrder k).truck k) := by
  have self : s = s.setTruck k (s.truck k) := by simp [State.setTruck, State.truck]
  cases h : (s.truck k).state <;> simp only [State.lowerOrder, h, State.truck_setTruck_same] <;> exact self

/-! ### The line order -/

/-- An entry that comes onto a span alters the queue entries for that span and nothing else (R111). -/
theorem State.spanGained_eq (s : State) (i : Nat) :
    s.spanGained i = { s with queue := s.queue.map fun e => if e.span = i then { e with altered := true } else e } := rfl

@[simp] theorem State.tellEmptied_queue (s : State) (i : Nat) : (s.tellEmptied i).queue = s.queue := by
  unfold State.tellEmptied
  split
  · rfl
  · split <;> rfl

@[simp] theorem State.tellEntered_queue (s : State) (i : Nat) (kind : EntryKind) :
    (s.tellEntered i kind).queue = s.queue := by
  unfold State.tellEntered
  split
  · rfl
  · cases kind with
    | phantom => rfl
    | truck k => simp only [State.lowerOrder]; split <;> rfl

/-- A span told to be emptied becomes BARRED exactly when it was PENDING_BAR with no entry on it (R84, R143). -/
theorem State.tellEmptied_spanState (s : State) (i m : Nat) :
    (s.tellEmptied i).spanState m =
      if m = i ∧ s.occupied i = false ∧ s.spanState i = .pendingBar then .barred else s.spanState m := by
  unfold State.tellEmptied
  cases ho : s.occupied i with
  | true => simp
  | false =>
    by_cases hp : s.spanState i = .pendingBar
    · have hi : i < 16 := by
        rcases Nat.lt_or_ge i 16 with hi | hi
        · exact hi
        · simp [State.spanState, Vector.getElem?_eq_none hi] at hp
      rw [if_neg (by simp), if_pos hp, State.spanState_setSpanState]
      by_cases hm : m = i
      · simp [hm, hp, hi]
      · simp [hm]
    · simp [hp]

theorem State.tellEmptied_frame (s : State) (i : Nat) :
    s.tellEmptied i = { s with spanStates := (s.tellEmptied i).spanStates } := by
  unfold State.tellEmptied
  split
  · rfl
  · split <;> rfl

/-- Spans told to be emptied one after another, the line order standing still meanwhile. -/
theorem State.tellEmptied_fold (l : List Entry) : ∀ s : State,
    let t := l.foldl (fun s e => s.tellEmptied e.span) s
    t = { s with spanStates := t.spanStates } ∧
    ∀ m, t.spanState m =
      if s.spanState m = .pendingBar ∧ l.any (fun e => e.span == m) = true ∧ s.occupied m = false then .barred
      else s.spanState m := by
  induction l with
  | nil => intro s; exact ⟨rfl, fun m => by simp⟩
  | cons e l ih =>
    intro s
    obtain ⟨h1, h2⟩ := ih (s.tellEmptied e.span)
    have hf := s.tellEmptied_frame e.span
    have ho : ∀ m, (s.tellEmptied e.span).occupied m = s.occupied m := fun m => by rw [hf]; rfl
    refine ⟨?_, fun m => ?_⟩
    · rw [List.foldl_cons, h1, hf]
    · rw [List.foldl_cons, h2 m, ho, State.tellEmptied_spanState]
      by_cases hm : m = e.span
      · subst hm
        cases hoc : s.occupied e.span <;> by_cases hp : s.spanState e.span = .pendingBar <;> simp [hp]
      · have hm' : (e.span == m) = false := by simpa using Ne.symm hm
        simp [hm, hm']

/-- Removing entries does not depend on the truck table. -/
theorem State.removeEntries_setTruck (s : State) (k : Slot) (t : Truck) (q : Entry → Bool) :
    (s.setTruck k t).removeEntries q = (s.removeEntries q).setTruck k t := by
  have told : ∀ (u : State) (i : Nat), (u.setTruck k t).tellEmptied i = (u.tellEmptied i).setTruck k t := by
    intro u i
    show (if u.occupied i = true then u.setTruck k t
      else if u.spanState i = .pendingBar then (u.setTruck k t).setSpanState i .barred else u.setTruck k t) = _
    unfold State.tellEmptied
    split
    · rfl
    · split <;> rfl
  have fold : ∀ (l : List Entry) (u : State), l.foldl (fun s e => s.tellEmptied e.span) (u.setTruck k t) =
      (l.foldl (fun s e => s.tellEmptied e.span) u).setTruck k t := by
    intro l
    induction l with
    | nil => intro u; rfl
    | cons e l ih => intro u; rw [List.foldl_cons, List.foldl_cons, told, ih]
  exact fold _ (s.putLine (s.line.filter fun e => !q e))

/-- Insertion places an entry behind those on its span or a higher one and ahead of the rest (R81). -/
theorem insertEntry_eq (e : Entry) (l : List Entry) :
    insertEntry e l =
      l.takeWhile (fun a => e.span ≤ a.span) ++ e :: l.dropWhile fun a => e.span ≤ a.span := by
  induction l with
  | nil => rfl
  | cons a l ih =>
    by_cases h : a.span < e.span
    · have h' : ¬e.span ≤ a.span := by omega
      simp [insertEntry, h, h']
    · have h' : e.span ≤ a.span := by omega
      simp [insertEntry, h, h', ih]

/-- The foremost entry on a span is the one with none on that span ahead of it (R95). -/
theorem updateForemost_split (f : Entry → Option Entry) {ahead : List Entry} (e : Entry) (behind : List Entry)
    (h : ∀ x ∈ ahead, x.span ≠ e.span) :
    updateForemost e.span f (ahead ++ e :: behind) = ahead ++ (f e).toList ++ behind := by
  induction ahead with
  | nil => cases hf : f e <;> simp [updateForemost, hf]
  | cons a l ih =>
    have ha : a.span ≠ e.span := h a (by simp)
    simp [updateForemost, ha, ih fun x hx => h x (by simp [hx])]

theorem allPhantomNos_split (n : PhantomNo) :
    allPhantomNos = allPhantomNos.take n.val ++ n :: allPhantomNos.drop (n.val + 1) := by
  revert n; decide

theorem lt_of_mem_take_allPhantomNos (n : PhantomNo) : ∀ m ∈ allPhantomNos.take n.val, m < n := by
  revert n; decide

/-- The lowest free phantom number (R80). -/
theorem lowestFreePhantom_eq {line : List Entry} {n : PhantomNo} (free : ∀ x ∈ line, x.isPhantomNo n = false)
    (below : ∀ m < n, ∃ x ∈ line, x.isPhantomNo m = true) : lowestFreePhantom line = n := by
  have h : (allPhantomNos.find? fun n => !line.any fun e => e.isPhantomNo n) = some n := by
    rw [List.find?_eq_some_iff_append]
    refine ⟨by simpa using free, _, _, allPhantomNos_split n, fun m hm => ?_⟩
    obtain ⟨x, hx, hn⟩ := below m (lt_of_mem_take_allPhantomNos n m hm)
    simpa using ⟨x, hx, hn⟩
  rw [lowestFreePhantom, h]; rfl

/-- A conversion with room for a phantom replaces the truck's entry in its place (R83). -/
theorem State.convert_of_room {s : State} {k : Slot} {current : Nat} {origin : Option (Slot × U16)}
    (h : phantomsIn s.line < 4) :
    s.convert k current origin = s.putLine (s.line.map (Entry.toPhantom k (lowestFreePhantom s.line) current
      (after s.now (s.params.phantomHold * 1000)) origin)) := by
  simp [State.convert, h]

/-- A conversion with four phantoms standing removes the entry and sets PHANTOM_OVERFLOW (R83). -/
theorem State.convert_of_full {s : State} {k : Slot} {current : Nat} {origin : Option (Slot × U16)}
    (h : 4 ≤ phantomsIn s.line) :
    s.convert k current origin = (s.removeEntries fun e => e.isTruckOf k).overflowed := by
  rw [State.convert, if_neg (by omega)]

/-- Putting one entry in another's place, where only that entry bears the name. -/
theorem map_toPhantom_split {k : Slot} {ahead behind : List Entry} {e : Entry} (n : PhantomNo) (c : Nat) (x : Time)
    (o : Option (Slot × U16)) (he : e.isTruckOf k = true) (h : ∀ a ∈ ahead ++ behind, a.isTruckOf k = false) :
    (ahead ++ e :: behind).map (Entry.toPhantom k n c x o) =
      ahead ++ { e with kind := .phantom n c x o } :: behind := by
  have other : ∀ l : List Entry, (∀ a ∈ l, a.isTruckOf k = false) → l.map (Entry.toPhantom k n c x o) = l := by
    intro l hl
    rw [List.map_congr_left (g := id) (fun a ha => by simp [Entry.toPhantom, hl a ha]), List.map_id]
  rw [List.map_append, List.map_cons, other ahead fun a ha => h a (by simp [ha]),
    other behind fun a ha => h a (by simp [ha])]
  simp [Entry.toPhantom, he]

/-! ### Folds over the truck table -/

/-- An operation that rewrites one slot's record, applied to every slot, rewrites every record once. -/
theorem fold_trucks (f : State → Slot → State) (g : State → Slot → Truck)
    (hf : ∀ s k, f s k = s.setTruck k (g s k))
    (hg : ∀ (s : State) j k t, j ≠ k → g (s.setTruck j t) k = g s k) :
    ∀ (l : List Slot) (s : State), l.Nodup →
      (∀ k, (l.foldl f s).truck k = if k ∈ l then g s k else s.truck k) ∧
        l.foldl f s = { s with trucks := (l.foldl f s).trucks } := by
  intro l
  induction l with
  | nil => intro s _; exact ⟨fun k => by simp, rfl⟩
  | cons a l ih =>
    intro s hn
    obtain ⟨ha, hl⟩ := List.nodup_cons.1 hn
    obtain ⟨h1, h2⟩ := ih (f s a) hl
    rw [List.foldl_cons]
    refine ⟨fun k => ?_, ?_⟩
    · rw [h1 k, hf]
      by_cases hk : k = a
      · subst hk; simp [ha]
      · rw [hg _ _ _ _ (Ne.symm hk), State.truck_setTruck_other _ hk]
        simp [hk]
    · rw [h2, hf]; rfl

end Sys2Proof.Machine
end

