-- ==== Sys2Proof/Laws/Folds.lean ====
section
/-! SUPPORT. What the operations that run over every slot, span, joint or queue entry leave, once each. -/

namespace Sys2Proof.Machine

/-! ### Truck records -/

/-- The record of a truck taken out of the queue on the part's account (R108, R115). -/
theorem State.expel_eq (s : State) (k : Slot) (r : Reason) :
    s.expel k r = s.setTruck k
      { (s.truck k).standby (after s.now (s.params.standbyIdle * 1000)) none with refusal := some r } := by
  simp [State.expel, State.enterStandby]

/-- A list of slots expelled one after another: each is expelled once, however often it stands in the list. -/
theorem State.expel_fold (r : Reason) (l : List Slot) : ∀ s : State,
    let t := l.foldl (fun s k => s.expel k r) s
    t = { s with trucks := t.trucks } ∧
    ∀ k, t.truck k =
      if k ∈ l then { (s.truck k).standby (after s.now (s.params.standbyIdle * 1000)) none with refusal := some r }
      else s.truck k := by
  induction l with
  | nil => intro s; exact ⟨rfl, fun k => by simp⟩
  | cons a l ih =>
    intro s
    obtain ⟨h1, h2⟩ := ih (s.expel a r)
    refine ⟨?_, fun k => ?_⟩
    · rw [List.foldl_cons, h1, State.expel_eq]; rfl
    · rw [List.foldl_cons, h2 k, State.expel_eq]
      by_cases hk : k = a
      · subst hk; simp [Truck.standby]
      · by_cases hl : k ∈ l <;> simp [hk, hl, State.truck_setTruck_other]

/-- What STOP makes of a truck's record depends on that record, the count and the parameters. -/
theorem State.stopTruck_congr {u v : State} {k : Slot} (h : u.truck k = v.truck k) (hn : u.now = v.now)
    (hp : u.params = v.params) : (u.stopTruck k).truck k = (v.stopTruck k).truck k := by
  cases hs : (v.truck k).state <;>
    simp only [State.stopTruck, State.lowerOrder, State.expel_eq, h, hs, hn, hp, State.truck_setTruck_same]

/-- STOP acts on each truck once, after the queue is emptied (R115). -/
theorem State.stopTrucks_spec (s : State) :
    (∀ k, s.stopTrucks.truck k = (s.stopTruck k).truck k) ∧
      s.stopTrucks = { s with queue := [], trucks := s.stopTrucks.trucks } := by
  have hf : ∀ (s : State) k, s.stopTruck k = s.setTruck k ((s.stopTruck k).truck k) := by
    intro s k
    unfold State.stopTruck
    cases h : (s.truck k).state <;> simp only <;> first
      | (rw [State.expel_eq, State.truck_setTruck_same])
      | exact s.lowerOrder_frame k
      | exact (s.setTruck_truck k).symm
  have h := fold_trucks State.stopTruck (fun s k => (s.stopTruck k).truck k) hf
    (fun s _ _ t hj => State.stopTruck_congr (State.truck_setTruck_other s (Ne.symm hj) t) rfl rfl) allSlots
    { s with queue := [] } allSlots_nodup
  refine ⟨fun k => ?_, ?_⟩
  · rw [State.stopTrucks, h.1 k, if_pos (mem_allSlots k)]; exact State.stopTruck_congr rfl rfl rfl
  · rw [State.stopTrucks, h.2]

/-- The marks a snapshot sets (R111, R132; log 19). -/
theorem State.markSnapshot_spec (s : State) :
    (∀ k, s.markSnapshot.truck k = { s.truck k with throughout := (s.truck k).state = .drawing }) ∧
      s.markSnapshot = { s with
        queue := s.queue.map fun e => { e with altered := false }, trucks := s.markSnapshot.trucks } := by
  have h := fold_trucks
    (fun s k => s.setTruck k { s.truck k with throughout := (s.truck k).state = .drawing })
    (fun s k => { s.truck k with throughout := (s.truck k).state = .drawing }) (fun _ _ => rfl)
    (fun s j k t hj => by simp [State.truck_setTruck_other s (Ne.symm hj)]) allSlots
    { s with queue := s.queue.map fun e => { e with altered := false } } allSlots_nodup
  refine ⟨fun k => ?_, ?_⟩
  · rw [State.markSnapshot, h.1 k, if_pos (mem_allSlots k)]; rfl
  · rw [State.markSnapshot, h.2]

/-! ### Span states -/

/-- Writing the state a span has changes nothing. -/
theorem State.setSpanState_self (s : State) (i : Nat) : s.setSpanState i (s.spanState i) = s := by
  have h : s.spanStates.setIfInBounds i (s.spanStates[i]?.getD .opened) = s.spanStates := by
    ext j hj
    by_cases hi : i = j
    · subst hi; simp [hj]
    · simp [hi]
  show { s with spanStates := s.spanStates.setIfInBounds i (s.spanStates[i]?.getD .opened) } = s
  rw [h]

/-- Span states rewritten one span after another: a span in the list is rewritten once. -/
theorem State.spanState_fold (f : State → Nat → State) (g : Nat → SpanState → SpanState)
    (hf : ∀ s i, f s i = s.setSpanState i (g i (s.spanState i))) (hg : ∀ i x, g i (g i x) = g i x) :
    ∀ (l : List Nat) (s : State),
      (∀ m, m < 16 → (l.foldl f s).spanState m = if m ∈ l then g m (s.spanState m) else s.spanState m) ∧
        l.foldl f s = { s with spanStates := (l.foldl f s).spanStates } := by
  intro l
  induction l with
  | nil => intro s; exact ⟨fun m _ => by simp, rfl⟩
  | cons a l ih =>
    intro s
    obtain ⟨h1, h2⟩ := ih (f s a)
    rw [List.foldl_cons]
    refine ⟨fun m hm => ?_, ?_⟩
    · rw [h1 m hm, hf, State.spanState_setSpanState]
      by_cases ha : m = a
      · subst ha; by_cases hl : m ∈ l <;> simp [hm, hl, hg]
      · by_cases hl : m ∈ l <;> simp [ha, hl]
    · rw [h2, hf]; rfl

/-- A bar writes the states of the spans alone, PENDING_BAR or BARRED on those that were OPEN (R141). -/
theorem State.barSpan_fold (l : List Nat) (s : State) :
    (∀ m, m < 16 → (l.foldl State.barSpan s).spanState m =
      if m ∈ l ∧ s.spanState m = .opened then (if s.occupied m then .pendingBar else .barred) else s.spanState m) ∧
      l.foldl State.barSpan s = { s with spanStates := (l.foldl State.barSpan s).spanStates } := by
  have key : ∀ (l : List Nat) (u : State), (∀ i, u.occupied i = s.occupied i) →
      l.foldl State.barSpan u = l.foldl
        (fun v i => v.setSpanState i
          (if v.spanState i = .opened then (if s.occupied i then .pendingBar else .barred) else v.spanState i)) u := by
    intro l
    induction l with
    | nil => intro u _; rfl
    | cons a l ih =>
      intro u hu
      have ha : u.barSpan a = u.setSpanState a
          (if u.spanState a = .opened then (if s.occupied a then .pendingBar else .barred) else u.spanState a) := by
        unfold State.barSpan
        by_cases h : u.spanState a = .opened
        · simp [h, hu]
        · rw [if_neg h, if_neg h, State.setSpanState_self]
      rw [List.foldl_cons, List.foldl_cons, ha]
      exact ih _ fun i => hu i
  rw [key l s fun _ => rfl]
  have h := State.spanState_fold
    (fun v i => v.setSpanState i
      (if v.spanState i = .opened then (if s.occupied i then .pendingBar else .barred) else v.spanState i))
    (fun i x => if x = .opened then (if s.occupied i then .pendingBar else .barred) else x) (fun _ _ => rfl)
    (fun i x => by cases x <;> cases s.occupied i <;> rfl) l s
  refine ⟨fun m hm => ?_, h.2⟩
  rw [h.1 m hm]
  by_cases hl : m ∈ l <;> by_cases ho : s.spanState m = .opened <;> simp [hl, ho]

/-- At the end of a warm reset a PENDING_BAR span is BARRED and any other span as it was (R138). -/
theorem State.settleBars_spec (s : State) :
    (∀ m, m < 16 → s.settleBars.spanState m = if s.spanState m = .pendingBar then .barred else s.spanState m) ∧
      s.settleBars = { s with spanStates := s.settleBars.spanStates } := by
  have hk : ∀ (u : State) i, (if u.spanState i = .pendingBar then u.setSpanState i .barred else u) =
      u.setSpanState i (if u.spanState i = .pendingBar then .barred else u.spanState i) := by
    intro u i
    by_cases h : u.spanState i = .pendingBar
    · simp [h]
    · rw [if_neg h, if_neg h, State.setSpanState_self]
  have h := State.spanState_fold
    (fun s i => if s.spanState i = .pendingBar then s.setSpanState i .barred else s)
    (fun _ x => if x = .pendingBar then .barred else x) hk (fun i x => by cases x <;> rfl) (List.range 16) s
  exact ⟨fun m hm => by rw [State.settleBars, h.1 m hm]; simp [hm], h.2⟩

/-! ### Channels -/

/-- At the end of a reset each channel whose input is active has seen one rise, and nothing else changes (R85). -/
theorem State.inputsRise_spec (s : State) :
    (∀ j, s.inputsRise.channel j =
      if s.det[j] then (s.channel j).risen s.now s.params.overlong else s.channel j) ∧
      s.inputsRise = { s with channels := s.inputsRise.channels } := by
  have key : ∀ (l : List Joint) (u : State), l.Nodup → u.det = s.det → u.now = s.now → u.params = s.params →
      let t := l.foldl
        (fun s j => if s.det[j] then s.setChannel j ((s.channel j).risen s.now s.params.overlong) else s) u
      (∀ j, t.channel j =
        if j ∈ l ∧ s.det[j] = true then (u.channel j).risen s.now s.params.overlong else u.channel j) ∧
        t = { u with channels := t.channels } := by
    intro l
    induction l with
    | nil => intro u _ _ _ _; exact ⟨fun j => by simp, rfl⟩
    | cons a l ih =>
      intro u hn hd ht hp
      obtain ⟨ha, hl⟩ := List.nodup_cons.1 hn
      have hda : u.det[a] = s.det[a] := by rw [hd]
      by_cases h : s.det[a] = true
      · obtain ⟨h1, h2⟩ := ih (u.setChannel a ((u.channel a).risen u.now u.params.overlong)) hl hd ht hp
        simp only [List.foldl_cons]
        rw [if_pos (hda.trans h)]
        refine ⟨fun j => ?_, ?_⟩
        · rw [h1 j, State.channel_setChannel]
          by_cases hj : j = a
          · subst hj; simp [ha, h, ht, hp]
          · simp [hj]
        · rw [h2]; rfl
      · obtain ⟨h1, h2⟩ := ih u hl hd ht hp
        simp only [List.foldl_cons]
        rw [if_neg (hda ▸ h)]
        refine ⟨fun j => ?_, h2⟩
        rw [h1 j]
        by_cases hj : j = a
        · subst hj; simp [ha, h]
        · simp [hj]
  obtain ⟨h1, h2⟩ := key allJoints s allJoints_nodup rfl rfl rfl
  exact ⟨fun j => by rw [State.inputsRise, h1 j]; simp [mem_allJoints j], h2⟩

/-! ### The tick -/

theorem insertAny_perm (n : Nat) (i : Instr) (l : List Instr) : (insertAny n i l).Perm (i :: l) := by
  cases l with
  | nil => exact List.Perm.refl _
  | cons a l =>
    have h : n % ((a :: l).length + 1) ≤ (a :: l).length := Nat.le_of_lt_succ (Nat.mod_lt _ (by simp))
    exact List.perm_insertIdx i (a :: l) h

/-- Whatever the free value, every due event is put in the queue, once (log 3). -/
theorem anyOrder_perm (c : Nat) (l : List Instr) : (anyOrder c l).Perm l := by
  induction l with
  | nil => exact List.Perm.refl _
  | cons i l ih => exact (insertAny_perm _ i _).trans (ih.cons i)

/-- What the tick does: nothing in a cold reset; otherwise the events still due are queued, or, when none is, the count
rises and the events then due are queued. -/
theorem tick_cases (s : State) :
    (s.coldReset = true ∧ s.tick = s) ∨
      (s.coldReset = false ∧ ∃ l, (s.dueEvents ≠ [] ∧ l.Perm s.dueEvents ∧
          s.tick = { s with choice := s.choice + 1, pending := l }) ∨
        (s.dueEvents = [] ∧ l.Perm ({ s with now := s.now + 1, choice := s.choice + 1 } : State).dueEvents ∧
          s.tick = { s with now := s.now + 1, choice := s.choice + 1, pending := l })) := by
  cases hc : s.coldReset with
  | true => exact .inl ⟨rfl, by simp [State.tick, hc]⟩
  | false =>
    refine .inr ⟨rfl, ?_⟩
    cases hd : s.dueEvents with
    | nil => exact ⟨_, .inr ⟨rfl, anyOrder_perm (s.choice + 1) _, by simp [State.tick, hc, hd, State.advance]⟩⟩
    | cons i l => exact ⟨_, .inl ⟨by simp, anyOrder_perm (s.choice + 1) _, by simp [State.tick, hc, hd]⟩⟩

end Sys2Proof.Machine
end

