-- ==== Sys2Proof/Laws/Frames.lean ====
section
/-! SUPPORT. Frames: the codes of R163 name one kind each, a two-byte field is its two bytes, and the counters of R161. -/

namespace Sys2Proof.Machine

/-- Bit `i` of a presence field is the mark of the optional item `i` (R166). -/
theorem presenceBits_testBit (l : List Bool) : ∀ i, (presenceBits l).testBit i = l.getD i false := by
  induction l with
  | nil => intro i; simp [presenceBits]
  | cons b l ih =>
    intro i
    cases i with
    | zero => cases b <;> simp [presenceBits, bit, Nat.testBit_zero]
    | succ i =>
      have half : presenceBits (b :: l) / 2 = presenceBits l := by
        cases b <;> simp [presenceBits, bit]
        omega
      rw [Nat.testBit_succ, half, ih]
      simp

theorem mem_allKinds (k : ReqKind) : k ∈ allKinds := by cases k <;> decide

theorem kindOfCode_code (k : ReqKind) : kindOfCode k.code = some k := by cases k <;> decide

/-- A code names at most one request kind (R163). -/
theorem kindOfCode_eq_some {b : Byte} {k : ReqKind} : kindOfCode b = some k ↔ k.code = b := by
  constructor
  · intro h
    simpa using List.find?_some h
  · rintro rfl
    exact kindOfCode_code k

theorem word_split (w : U16) : word (w.extractLsb' 8 8) (w.extractLsb' 0 8) = w := by
  unfold word
  ext i hi
  simp only [BitVec.getElem_append, BitVec.getElem_extractLsb']
  split
  · simp [BitVec.getLsbD_eq_getElem hi]
  · rename_i h
    have : 8 + (i - 8) = i := by omega
    simp [this, BitVec.getLsbD_eq_getElem hi]

theorem split_word (a b : Byte) : split (word a b) = [a, b] := by
  have h1 : (word a b).extractLsb' 8 8 = a := by
    unfold word
    ext i hi
    rw [BitVec.getElem_extractLsb', BitVec.getLsbD_eq_getElem (show 8 + i < 8 + 8 by omega), BitVec.getElem_append,
      dif_neg (by omega)]
    simp
  have h2 : (word a b).extractLsb' 0 8 = b := by
    unfold word
    ext i hi
    rw [BitVec.getElem_extractLsb', BitVec.getLsbD_eq_getElem (show 0 + i < 8 + 8 by omega), BitVec.getElem_append,
      dif_pos (by omega)]
    simp
  rw [split, h1, h2]

/-- A frame is taken exactly when its check agrees, its kind is one its port accepts, its length is the kind's, and its
payload spells the request (R160). -/
theorem examine_eq_taken_iff {p : Port} {kind : Byte} {payload : List Byte} {check : U16} {i : Instr} :
    examine p kind payload check = .taken i ↔
      check = frameCheck kind payload ∧ ∃ k : ReqKind, k.code = kind ∧ k.onPort p = true ∧ payload.length = k.length
        ∧ parseRequest p k payload = some i := by
  unfold examine
  by_cases hc : check = frameCheck kind payload
  · rw [if_neg (fun h => h hc)]
    cases hk : kindOfCode kind with
    | none =>
      constructor
      · intro h; cases h
      · rintro ⟨_, k, hk', _⟩
        rw [kindOfCode_eq_some.2 hk'] at hk; cases hk
    | some k =>
      have hcode := kindOfCode_eq_some.1 hk
      have uniq : ∀ k' : ReqKind, k'.code = kind → k' = k := fun k' h => by
        rw [← Option.some_inj, ← hk, kindOfCode_eq_some.2 h]
      dsimp only
      constructor
      · intro h
        split at h
        · cases h
        · split at h
          · cases h
          · split at h
            · cases h
            · cases h
              exact ⟨hc, k, hcode, by simp_all, by simp_all, by assumption⟩
      · rintro ⟨_, k', hk', h1, h2, h3⟩
        obtain rfl := uniq k' hk'
        simp [h1, h2, h3]
  · rw [if_pos hc]
    constructor
    · intro h; cases h
    · rintro ⟨h, _⟩; exact absurd h hc

/-- A counter raised is one higher, and at 15 stays at 15 (R161). -/
theorem raised_eq (c : Nat) : raised c = min 15 (c + 1) := by
  unfold raised
  split <;> omega

/-- A frame in progress has run out exactly when 50 ms have passed since its start byte (R159). -/
theorem Rx.timedOut_iff (r : Rx) (now : Time) :
    r.timedOut now = true ↔ ∃ t, r.start = some t ∧ 50 ≤ (now - t).toNat := by
  unfold Rx.timedOut
  cases r.start <;> simp [elapsed, Config.frameLimit]

/-- The oldest lost request has run out exactly when 50 ms have passed since its start (R158, R159). -/
theorem PortState.lostOut_iff (x : PortState) (now : Time) :
    x.lostOut now = true ↔ ∃ t rest, x.lost = t :: rest ∧ 50 ≤ (now - t).toNat := by
  unfold PortState.lostOut
  cases x.lost <;> simp [elapsed, Config.frameLimit]

/-- A lost byte is a new lost request exactly when it begins a frame: 0xA5 with its stop bit outside the bytes of an
earlier one (R158, R159). -/
theorem PortState.loseByte_lost (x : PortState) (now : Time) (b : RxByte) :
    (x.loseByte now b).lost =
      if x.lostRx = .hunt ∧ b = ⟨0xA5, true⟩ then x.lost ++ [now] else x.lost := by
  obtain ⟨v, stop⟩ := b
  cases hx : x.lostRx <;> cases stop <;> by_cases hv : v = 165#8 <;>
    simp [PortState.loseByte, PortState.lose, Rx.skip, hx, hv]

/-- A lost byte moves nothing but what the port keeps of lost requests. -/
theorem PortState.loseByte_frame (x : PortState) (now : Time) (b : RxByte) :
    x.loseByte now b = { x with lost := (x.loseByte now b).lost, lostRx := x.lostRx.skip now b } := by
  unfold PortState.loseByte
  dsimp only
  split <;> rfl

/-! ### The fields of a port record that is updated (R158 to R160) -/

@[simp] theorem PortState.discard_rx (x : PortState) : x.discard.rx = .hunt := rfl
@[simp] theorem PortState.discard_checkErrors (x : PortState) : x.discard.checkErrors = raised x.checkErrors := rfl
@[simp] theorem PortState.discard_unknownKinds (x : PortState) : x.discard.unknownKinds = x.unknownKinds := rfl
@[simp] theorem PortState.discard_tx (x : PortState) : x.discard.tx = x.tx := rfl
@[simp] theorem PortState.discard_lost (x : PortState) : x.discard.lost = x.lost := rfl
@[simp] theorem PortState.discard_lostRx (x : PortState) : x.discard.lostRx = x.lostRx := rfl

@[simp] theorem PortState.discardKind_rx (x : PortState) : x.discardKind.rx = .hunt := rfl
@[simp] theorem PortState.discardKind_checkErrors (x : PortState) : x.discardKind.checkErrors = x.checkErrors := rfl
@[simp] theorem PortState.discardKind_unknownKinds (x : PortState) : x.discardKind.unknownKinds = raised x.unknownKinds := rfl
@[simp] theorem PortState.discardKind_tx (x : PortState) : x.discardKind.tx = x.tx := rfl
@[simp] theorem PortState.discardKind_lost (x : PortState) : x.discardKind.lost = x.lost := rfl
@[simp] theorem PortState.discardKind_lostRx (x : PortState) : x.discardKind.lostRx = x.lostRx := rfl

@[simp] theorem PortState.quiet_rx (x : PortState) : x.quiet.rx = .hunt := rfl
@[simp] theorem PortState.quiet_checkErrors (x : PortState) : x.quiet.checkErrors = x.checkErrors := rfl
@[simp] theorem PortState.quiet_unknownKinds (x : PortState) : x.quiet.unknownKinds = x.unknownKinds := rfl
@[simp] theorem PortState.quiet_tx (x : PortState) : x.quiet.tx = none := rfl
@[simp] theorem PortState.quiet_lost (x : PortState) : x.quiet.lost = [] := rfl
@[simp] theorem PortState.quiet_lostRx (x : PortState) : x.quiet.lostRx = .hunt := rfl

@[simp] theorem PortState.lose_rx (x : PortState) (t : Time) : (x.lose t).rx = x.rx := rfl
@[simp] theorem PortState.lose_checkErrors (x : PortState) (t : Time) : (x.lose t).checkErrors = x.checkErrors := rfl
@[simp] theorem PortState.lose_unknownKinds (x : PortState) (t : Time) : (x.lose t).unknownKinds = x.unknownKinds := rfl
@[simp] theorem PortState.lose_tx (x : PortState) (t : Time) : (x.lose t).tx = x.tx := rfl
@[simp] theorem PortState.lose_lost (x : PortState) (t : Time) : (x.lose t).lost = x.lost ++ [t] := rfl
@[simp] theorem PortState.lose_lostRx (x : PortState) (t : Time) : (x.lose t).lostRx = x.lostRx := rfl

@[simp] theorem PortState.countLost_rx (x : PortState) : x.countLost.rx = x.rx := rfl
@[simp] theorem PortState.countLost_checkErrors (x : PortState) : x.countLost.checkErrors = raised x.checkErrors := rfl
@[simp] theorem PortState.countLost_unknownKinds (x : PortState) : x.countLost.unknownKinds = x.unknownKinds := rfl
@[simp] theorem PortState.countLost_tx (x : PortState) : x.countLost.tx = x.tx := rfl
@[simp] theorem PortState.countLost_lost (x : PortState) : x.countLost.lost = x.lost.tail := rfl
@[simp] theorem PortState.countLost_lostRx (x : PortState) : x.countLost.lostRx = x.lostRx := rfl

end Sys2Proof.Machine
end

