-- ==== Sys2Proof/Laws/Clock.lean ====
section
/-! SUPPORT. The tick: when a deadline is due, and which events are among the due ones, list by list. -/

namespace Sys2Proof.Machine

/-- A deadline is due exactly when it is set and does not lie ahead of the count (R155). -/
theorem due_iff (d : Option Time) (now : Time) :
    due d now = true ↔ ∃ t, d = some t ∧ ¬(1 ≤ (t - now).toNat ∧ (t - now).toNat ≤ 2147483647) := by
  cases d with
  | none => simp [due]
  | some d => simp only [due, reached, ahead, Option.some.injEq, exists_eq_left']; simp [-BitVec.toNat_sub]; omega

theorem mem_dueWhen {b : Bool} {i c : Instr} : c ∈ dueWhen b i ↔ b = true ∧ c = i := by
  unfold dueWhen; cases b <;> simp

theorem mem_allFeeds (f : Feed) : f ∈ allFeeds := by cases f <;> decide

theorem mem_allPorts (p : Port) : p ∈ allPorts := by cases p <;> decide

/-- An entry's name names it. -/
theorem Entry.isRef_iff (e : Entry) (r : EntryRef) : e.isRef r = true ↔ e.ref = r := by
  unfold Entry.isRef Entry.ref Entry.isTruckOf Entry.isPhantomNo
  cases e.kind <;> cases r <;> simp

/-- A frame is due to run out of time: the one in progress, or the oldest lost request (R158, R159). -/
theorem PortState.frameDue_iff (x : PortState) (now : Time) :
    x.frameDue now = true ↔ (∃ a, x.rx.start = some a ∧ 50 ≤ (now - a).toNat) ∨
      ∃ a, x.lost.head? = some a ∧ 50 ≤ (now - a).toNat := by
  unfold PortState.frameDue
  rw [Bool.or_eq_true, Rx.timedOut_iff, PortState.lostOut_iff]
  cases x.lost <;> simp [-BitVec.toNat_sub]

theorem State.mem_duePort (s : State) (p : Port) (c : Instr) :
    c ∈ s.duePort p ↔ ((s.port p).frameDue s.now = true ∧ c = .frameTimeout p) ∨
      ∃ x, (s.port p).tx = some x ∧ x.ends s.now (Config.answerEnds s.choice p) = true ∧ c = .answerSent p := by
  unfold State.duePort
  cases (s.port p).tx <;> simp [mem_dueWhen]

theorem State.mem_dueCommit (s : State) (c : Instr) :
    c ∈ s.dueCommit ↔ ∃ x, s.inFlight = some x ∧
      (40 ≤ (s.now - x.time).toNat ∨ Config.commitEnds s.choice = true) ∧ c = .commit := by
  unfold State.dueCommit
  cases s.inFlight <;> simp [mem_dueWhen, elapsed, Config.commitLimit, -BitVec.toNat_sub]

theorem State.mem_dueStore (s : State) (c : Instr) :
    c ∈ s.dueStore ↔ ∃ t, s.store = .writing t ∧
      (400 ≤ (s.now - t).toNat ∨ Config.storeEnds s.choice = true) ∧
      c = .storeWriteEnd (Config.storeAgrees s.choice) := by
  unfold State.dueStore
  cases s.store <;> simp [mem_dueWhen, elapsed, Config.storeLimit, -BitVec.toNat_sub]

theorem State.mem_dueEntry (s : State) (e : Entry) (c : Instr) :
    c ∈ s.dueEntry e ↔ (due e.nextJoint s.now = true ∧ e.conf = .known ∧ c = .nextJointDeadline e.ref) ∨
      (due e.lost s.now = true ∧ e.conf = .stale ∧ c = .lostDeadline e.ref) ∨
      ∃ n u x o, e.kind = .phantom n u x o ∧ due (some x) s.now = true ∧ c = .phantomExpiry n := by
  unfold State.dueEntry
  cases h : e.kind <;> simp [mem_dueWhen, due, and_assoc]

theorem mem_map_flatten {α : Type} {l : List α} {f : α → List Instr} {c : Instr} :
    c ∈ (l.map f).flatten ↔ ∃ a ∈ l, c ∈ f a := by
  rw [← List.flatMap_def, List.mem_flatMap]

/-- The due events, block by block. -/
theorem State.mem_dueEvents (s : State) (c : Instr) :
    c ∈ s.dueEvents ↔ c ∈ s.dueWarm ∨ (∃ p, c ∈ s.duePort p) ∨ (∃ j, c ∈ s.dueChannel j) ∨ (∃ f, c ∈ s.dueFeed f) ∨
      (∃ k, c ∈ s.dueTruck k) ∨ (due s.spacing s.now = true ∧ c = .spacingDeadline) ∨ (∃ e ∈ s.line, c ∈ s.dueEntry e) ∨
      ((due s.cycle s.now = true ∧ s.sect = .running) ∧ c = .cycleDeadline) ∨ c ∈ s.dueCommit ∨ c ∈ s.dueStore := by
  simp only [State.dueEvents, List.mem_append, mem_map_flatten, mem_dueWhen, mem_allSlots, mem_allJoints, mem_allFeeds,
    mem_allPorts, true_and, Bool.and_eq_true, beq_iff_eq, or_assoc]

end Sys2Proof.Machine
end

