-- ==== Sys2Proof/Laws/Drop.lean ====
section
/-! SUPPORT. The drop calculator and the computation: what each helper gives, once (R6, R20, R29 to R33, R127, R128). -/

namespace Sys2Proof.Machine

/-! ### Rounding up -/

/-- `ceilDiv a b` is the least `q` with `a ≤ q * b`. -/
theorem ceilDiv_le_iff {a b q : Nat} (hb : 0 < b) : ceilDiv a b ≤ q ↔ a ≤ q * b := by
  unfold ceilDiv
  rw [← Nat.lt_succ_iff, Nat.div_lt_iff_lt_mul hb, Nat.succ_mul]
  omega

theorem le_ceilDiv_mul {a b : Nat} (hb : 0 < b) : a ≤ ceilDiv a b * b := (ceilDiv_le_iff hb).1 (Nat.le_refl _)

theorem ceilDiv_pos_iff {a b : Nat} (hb : 0 < b) : 0 < ceilDiv a b ↔ 0 < a := by
  have h := ceilDiv_le_iff (a := a) (q := 0) hb
  omega

/-! ### Derived resistances (R6) -/

theorem pList_length (below : Nat) (rs : List Nat) : (pList below rs).length = rs.length := by
  induction rs generalizing below with
  | nil => rfl
  | cons r rs ih => simp [pList, ih]

/-- P(s) is twice the resistance below the span plus the span's own. -/
theorem pList_getD (below : Nat) (rs : List Nat) (m : Nat) (h : m < rs.length) :
    (pList below rs).getD m 0 = 2 * (below + (rs.take m).sum) + rs.getD m 0 := by
  induction rs generalizing below m with
  | nil => simp at h
  | cons r rs ih =>
    cases m with
    | zero => simp [pList]
    | succ m =>
      have h' : m < rs.length := by simpa using h
      have ih := ih (below + r) m h'
      simp only [pList, List.getD_cons_succ, List.take_succ_cons, List.sum_cons] at ih ⊢
      rw [ih]; omega

theorem netOf_pAt {rs : List Nat} {m : Nat} (h : m < rs.length) :
    (netOf rs).pAt m = 2 * (rs.take m).sum + rs.getD m 0 := by
  rw [Net.pAt, netOf, pList_getD 0 rs m h, Nat.zero_add]

theorem netOf_qAt {rs : List Nat} {m : Nat} (h : m < rs.length) :
    (netOf rs).qAt m = 2 * rs.sum - (netOf rs).pAt m := by
  have hl : m < (pList 0 rs).length := by rwa [pList_length]
  simp [Net.qAt, Net.pAt, netOf, List.getD_eq_getElem?_getD, hl]

theorem netOf_t (rs : List Nat) : (netOf rs).t = 2 * rs.sum := rfl

theorem netOf_n (rs : List Nat) : (netOf rs).n = rs.length := rfl

/-! ### The increment (R29 to R33) -/

theorem minOf_le (x : Nat) (xs : List Nat) : minOf x xs ≤ x := by
  unfold minOf
  induction xs generalizing x with
  | nil => exact Nat.le_refl x
  | cons y ys ih => exact Nat.le_trans (ih _) (Nat.min_le_left x y)

theorem minOf_le_of_mem {x y : Nat} {xs : List Nat} (h : y ∈ xs) : minOf x xs ≤ y := by
  unfold minOf
  induction xs generalizing x with
  | nil => simp at h
  | cons z zs ih =>
    rcases List.mem_cons.1 h with rfl | h
    · exact Nat.le_trans (minOf_le _ zs) (Nat.min_le_right x _)
    · exact ih h

/-- The rounding of R33 gives 0 or a multiple of the quantum from I_min up, never more than the room. -/
theorem cutIncrement_spec (x iMin : Nat) :
    cutIncrement x iMin = 0 ∨ (iMin ≤ cutIncrement x iMin ∧ cutIncrement x iMin ≤ x ∧ cutIncrement x iMin % 50 = 0) := by
  unfold cutIncrement
  have h1 : x / 50 * 50 ≤ x := Nat.div_mul_le_self x 50
  have h2 : x / 50 * 50 % 50 = 0 := Nat.mul_mod_left _ _
  by_cases h : x / 50 * 50 < iMin
  · left; simp [Config.quantum, h]
  · right; simp [Config.quantum, h]; omega

theorem cutIncrement_le (x iMin : Nat) : cutIncrement x iMin ≤ x := by
  rcases cutIncrement_spec x iMin with h | h
  · omega
  · exact h.2.1

/-- No room gives no increment (R30, R31). -/
theorem term_of_no_room {room : Int} (growth : Nat) (h : room ≤ 0) : term room growth = 0 := by simp [term, h]

/-- A term, times its growth per ampere, fits in its room (R30, R31). -/
theorem growth_mul_term_le {room : Int} {growth : Nat} (h : 0 ≤ room) : ((growth * term room growth : Nat) : Int) ≤ room := by
  unfold term
  by_cases h' : room ≤ 0
  · simp [h']; exact h
  · rw [if_neg h']
    have := Nat.mul_div_le room.toNat growth
    omega

/-- An increment above 0 is at most the request and every term (R33). -/
theorem headroom_le {inp : InputSet} {net : Net} {c : Candidate} (hn : inp.net = some net) {x : Nat}
    (hx : x = c.request ∨ x ∈ voltageTerms inp net c ∨ x ∈ capacityTerms inp net c) : headroom inp c ≤ x := by
  rw [headroom, hn]
  by_cases hm : inp.mode = .none
  · simp [hm]
  · dsimp only
    rw [if_neg hm]
    refine Nat.le_trans (cutIncrement_le _ _) ?_
    rcases hx with rfl | hx | hx
    · exact minOf_le _ _
    · exact minOf_le_of_mem (List.mem_append_left _ hx)
    · exact minOf_le_of_mem (List.mem_append_right _ hx)

/-- The shape of every increment (R33). -/
theorem headroom_shape (inp : InputSet) (c : Candidate) :
    headroom inp c = 0 ∨ (c.iMin ≤ headroom inp c ∧ headroom inp c ≤ c.request ∧ headroom inp c % 50 = 0) := by
  unfold headroom
  split
  · exact .inl rfl
  · split
    · exact .inl rfl
    · rcases cutIncrement_spec (minOf c.request (voltageTerms inp _ c ++ capacityTerms inp _ c)) c.iMin with h | h
      · exact .inl h
      · exact .inr ⟨h.1, Nat.le_trans h.2.1 (minOf_le _ _), h.2.2⟩

/-! ### The computation (R126 to R129) -/

theorem targetPass_length (x : Snapshot) (before : List Charged) (es : List SnapEntry) :
    (x.targetPass before es).length = es.length := by
  induction es generalizing before with
  | nil => rfl
  | cons e es ih => simp [Snapshot.targetPass, ih]

theorem heldOrTargets_length (x : Snapshot) : x.heldOrTargets.length = x.entries.length := by
  unfold Snapshot.heldOrTargets
  split <;> simp [targetPass_length]

theorem charges_length (x : Snapshot) : x.charges.length = x.entries.length := by
  simp [Snapshot.charges, heldOrTargets_length]

theorem outcome_eq_met_iff (x : Snapshot) : x.outcome = .met ↔ x.overflow = false ∧ meetsLimits x.heldSet = true := by
  unfold Snapshot.outcome
  cases x.overflow <;> cases h : meetsLimits x.heldSet <;> simp

/-- One entry of the target pass: the entries ahead of it with what they were given, itself and those behind at their held
charges (R127). -/
theorem targetPass_append (x : Snapshot) (before : List Charged) (ahead : List SnapEntry) (e : SnapEntry)
    (behind : List SnapEntry) :
    ∃ cs, cs.length = ahead.length ∧ x.targetPass before (ahead ++ e :: behind) = cs ++
      let before' := before ++ List.zipWith SnapEntry.charged ahead cs
      let c := if e.drawing then headroom (x.inputSet (before' ++ heldCharges (e :: behind))) e.candidate else e.held
      c :: x.targetPass (before' ++ [e.charged c]) behind := by
  induction ahead generalizing before with
  | nil => exact ⟨[], rfl, by simp [Snapshot.targetPass]⟩
  | cons a l ih =>
    let c := if a.drawing then headroom (x.inputSet (before ++ heldCharges (a :: (l ++ e :: behind)))) a.candidate
      else a.held
    obtain ⟨cs, h1, h2⟩ := ih (before ++ [a.charged c])
    refine ⟨c :: cs, by simp [h1], ?_⟩
    rw [List.cons_append, Snapshot.targetPass, h2]
    simp [c]

end Sys2Proof.Machine
end

