-- ==== Sys2Proof/Laws/Store.lean ====
section
/-! SUPPORT. The check value of R160 taken part by part, and the check of the stored copy (R11, R12, R13). -/

namespace Sys2Proof.Machine

theorem checkValue_append (a b : List Byte) : checkValue (a ++ b) = b.foldl checkByte (checkValue a) := by
  simp [checkValue]

theorem checkValue_zeros (n : Nat) : checkValue (List.replicate n 0) = 0 := by
  induction n with
  | zero => rfl
  | succ n ih => rw [List.replicate_succ', checkValue_append, ih]; decide

/-- A copy with its own check value passes (R13). -/
theorem workingCopy_passes (s : State) : s.workingCopy.passes = true := by
  simp [StoredCopy.passes, State.workingCopy]

/-- A copy marked by STORE fails (R12). -/
theorem marked_fails (c : StoredCopy) : c.marked.passes = false := by
  have h : ∀ x : U16, (~~~x == x) = false := fun x => by
    rw [beq_eq_false_iff_ne]
    intro hx
    have := congrArg (fun y : U16 => y.getLsbD 0) hx
    simp at this
  exact h _

/-- The check value over the rest of a copy that has never been written, computed in four pieces. -/
theorem neverWritten_check : copyCheck none (Vector.replicate 16 {}) {} = 0x1BD7 := by
  have h : copyBytes none (Vector.replicate 16 {}) {} =
      List.replicate 65 0 ++ [0x07, 0xD0, 0x03, 0xE8, 0x00, 0x64, 0x01, 0xF4, 0x0B, 0xB8, 0x0B, 0xB8]
        ++ [0x03, 0xE8, 0x03, 0xE8, 0x0F, 0xA0, 0x00, 0x78, 0x00, 0x3C, 0x00, 0x0A]
        ++ [0x01, 0xF4, 0x07, 0xD0, 0x01, 0x2C, 0x13, 0x88, 0x05, 0xDC, 0x01, 0x2C]
        ++ [0x00, 0x28, 0x00, 0x14, 0x00, 0x1E, 0x04, 0xB0, 0x0B, 0xB8] := by decide +kernel
  have h1 : [0x07, 0xD0, 0x03, 0xE8, 0x00, 0x64, 0x01, 0xF4, 0x0B, 0xB8, 0x0B, 0xB8].foldl checkByte 0 = 0x8FBB := by
    decide +kernel
  have h2 : [0x03, 0xE8, 0x03, 0xE8, 0x0F, 0xA0, 0x00, 0x78, 0x00, 0x3C, 0x00, 0x0A].foldl checkByte 0x8FBB = 0x3D47 := by
    decide +kernel
  have h3 : [0x01, 0xF4, 0x07, 0xD0, 0x01, 0x2C, 0x13, 0x88, 0x05, 0xDC, 0x01, 0x2C].foldl checkByte 0x3D47 = 0x42D5 := by
    decide +kernel
  have h4 : [0x00, 0x28, 0x00, 0x14, 0x00, 0x1E, 0x04, 0xB0, 0x0B, 0xB8].foldl checkByte 0x42D5 = 0x1BD7 := by
    decide +kernel
  rw [copyCheck, h, checkValue_append, checkValue_append, checkValue_append, checkValue_append, checkValue_zeros, h1, h2,
    h3, h4]

end Sys2Proof.Machine
end

