-- ==== Sys2Proof/Tests/Slice0.lean ====
section
/-! SUPPORT. The model's own tests: ill-formed terms refused, worked cases of the spec, and for each statement a state and
operands that meet its hypotheses (each clause of it, at boundary values where it has ranges). -/

namespace Sys2Proof.Tests

-- One test after another: side by side their kernel evaluations need more threads than the check's memory holds.
set_option Elab.async false

open Sys2Proof.Machine

/-! ### States -/

/-- The state a command leaves. -/
def next (i : Instr) (s : State) : State :=
  match exec i s with
  | .next t => t
  | _ => s

/-- The six-span section of chapter 1, RUNNING, with both feeds in service (chapter 2, 2.9; chapter 7, 7.7). -/
def section6 : State :=
  let spans : Vector SpanRec 16 := #v[⟨300, 20, true⟩, ⟨300, 22, true⟩, ⟨300, 25, true⟩, ⟨300, 25, true⟩,
    ⟨300, 24, true⟩, ⟨300, 20, true⟩, {}, {}, {}, {}, {}, {}, {}, {}, {}, {}]
  let feed : FeedRec :=
    { state := .inService, volts := 2600, capacity := 3000, breaker := .closed, overdraw := 2
      lateDeadline := some 100000, outDeadline := some 100000 }
  { State.reset with
    now := 100000, sect := .running, spanCount := some 6, spans := spans, derived := some (netOf [20, 22, 25, 25, 24, 20])
    params := { vMin := 2200 }, cycle := some 100000, spacing := some 100000
    feedA := { feed := feed }, feedB := { feed := { feed with state := .late } } }

/-- A truck record with every deadline at the count of `section6`. -/
def truckIn (fleet : U16) (st : TruckState) : Truck :=
  { fleet := some fleet, state := st, request := 2500, iMin := 1000, issued := 2000, inForce := 2500
    idle := some 100000, holdoff := some 100000, raiseConfirm := some 100000, lowerConfirm := some 100000
    cutAck := some 100000, silence := some 100000, silentHold := some 100000, queueWait := some 100000 }

def entryOf (k : Slot) (span : Nat) : Entry :=
  { kind := .truck k, span := span, stale := some 5000, nextJoint := some 100000, lost := some 100000 }

def phantomOf (n : PhantomNo) (span : Nat) (origin : Option (Slot × U16)) : Entry :=
  { kind := .phantom n 1500 100000 origin, span := span, stale := some 5000, nextJoint := some 100000
    lost := some 100000 }

/-- A channel TRAILING since a rise at 99,900 ms. -/
def trailing (lastFall : Time) : Channel :=
  { state := .trailing, rise := some 99900, lastFall := some lastFall, blanking := some 100000, overlong := some 100000 }

/-- A truck in every state, slots 1 to 6, the rest FREE; two phantoms; every deadline at the count. -/
def busy : State :=
  { section6 with
    trucks := #v[truckIn 1 .drawing, truckIn 2 .queued, truckIn 3 .raisePending, truckIn 4 .lowering, truckIn 5 .silent,
      truckIn 6 .standby, {}, {}, {}, {}, {}, {}]
    line := [entryOf 0 4, entryOf 2 3, entryOf 3 2, entryOf 4 1, phantomOf 0 1 (some (0, 1)),
      { phantomOf 1 0 none with conf := .stale }]
    phantomCount := 2
    queue := [⟨1, 5, false⟩]
    spanStates := (Vector.replicate 16 SpanState.opened).set 2 .pendingBar |>.set 4 .barred
    channels := (((((Vector.replicate 17 ({} : Channel)).set 5 (trailing 99920)).set 6 (trailing 99919)).set 7
      { trailing 99930 with spent := true }).set 0
      { state := .present, rise := some 99900, overlong := some 100000 }) }

/-- The same with four phantoms standing. -/
def full : State :=
  { busy with
    line := [entryOf 0 4, entryOf 2 3, phantomOf 3 3 none, phantomOf 2 2 none, entryOf 4 1, phantomOf 0 1 none,
      phantomOf 1 0 none]
    phantomCount := 4 }

/-- Every slot occupied. -/
def crowded : State :=
  { section6 with trucks := Vector.replicate 12 { truckIn 9 .standby with fleet := some 9 } }

/-! ### Ill-formed commands -/

theorem test_discard_of_a_passing_frame_is_ill_formed :
    (Instr.frameDiscarded .dispatch (.complete 0x34 [] (frameCheck 0x34 []))).wellFormed = false := by decide +kernel

theorem test_discard_of_a_frame_with_41_payload_bytes_is_ill_formed :
    (Instr.frameDiscarded .truck (.complete 0x10 (List.replicate 41 0) 0)).wellFormed = false := by decide +kernel

theorem test_discard_at_length_byte_40_is_ill_formed :
    (Instr.frameDiscarded .feedA (.lengthByte 40)).wellFormed = false := by decide +kernel

theorem test_discards_at_the_boundary_are_well_formed :
    (Instr.frameDiscarded .feedA (.lengthByte 41)).wellFormed = true ∧
      (Instr.frameDiscarded .truck (.complete 0x34 [] (frameCheck 0x34 []))).wellFormed = true ∧
      (Instr.frameDiscarded .dispatch (.complete 0x34 [] 1)).wellFormed = true := by decide +kernel

/-! ### Worked cases -/

/-- No word spells a command: the table gives no bits. -/
theorem test_no_word_spells_a_command : decodeTableWord 8 0x34 = none := rfl

/-- A store that has never been written fails its check (R11). -/
theorem test_never_written_copy_fails : StoredCopy.neverWritten.passes = false := by
  show ((0xFFFF : U16) == copyCheck none (Vector.replicate 16 {}) {}) = false
  rw [neverWritten_check]; decide

/-- The derived resistances of the six-span section (chapter 2, 2.2.1). -/
theorem test_transfer_resistances_of_the_six_span_section :
    let net := netOf [20, 22, 25, 25, 24, 20]
    net.t = 272 ∧ (net.pAt 4, net.qAt 4) = (208, 64) ∧ (net.pAt 1, net.qAt 1) = (62, 210) ∧
      (List.range 6).map (fun i => transfer .both net i i) = [19, 48, 66, 67, 49, 19] ∧
      transfer .both net 1 4 = 15 ∧
      (List.range 6).map (modelSpan .both (some net) .stale) = [1, 2, 3, 3, 4, 5] := by decide +kernel

/-- Chapter 2, case 1: X's increment of 2,500 A, its drop and shares, and Y that does not fit. -/
theorem test_case_1_of_chapter_2 :
    let inp : InputSet :=
      { mode := .both, vFeed := 2600, vMin := 2200, capA := 3000, capB := 2000, net := some (netOf [20, 22, 25, 25, 24, 20])
        entries := [⟨true, 4, 0⟩] }
    let with2500 := { inp with entries := [⟨true, 4, 2500⟩] }
    headroom inp ⟨4, 2500, 1000, true⟩ = 2500 ∧ estimateAt with2500 4 = 2538 ∧ shares with2500 = (589, 1912) ∧
      headroom with2500 ⟨1, 2800, 1000, false⟩ = 0 ∧ headroom with2500 ⟨1, 2800, 350, false⟩ = 350 := by decide +kernel

/-- Chapter 2, case 3: feed B out. -/
theorem test_case_3_of_chapter_2 :
    let inp : InputSet :=
      { mode := .aOnly, vFeed := 2600, vMin := 2200, capA := 3000, capB := 0, net := some (netOf [20, 22, 25, 25, 24, 20])
        entries := [⟨true, 4, 2500⟩] }
    estimateAt inp 4 = 2340 ∧ shares inp = (2500, 0) ∧ headroom inp ⟨1, 2800, 1000, false⟩ = 0 ∧
      headroom inp ⟨1, 2800, 500, false⟩ = 500 := by decide +kernel

/-- The snapshot of 50,300 ms in chapter 7, 7.7.3: X at span 4, Y at span 1 with exposure 1,800 A, W asking for span 0. -/
def snap773 : Snapshot :=
  { time := 50300, net := some (netOf [20, 22, 25, 25, 24, 20]), vMin := 2200, mode := .both, vFeed := 2600
    capA := 2000, capB := 3000, overflow := false
    entries := [⟨.truck 0 (some 1) .drawing 2500 1000 2500, 4, .known, 4⟩,
      ⟨.truck 1 (some 2) .drawing 2800 1000 1800, 1, .known, 1⟩]
    gate := true
    head := some { slot := 2, fleet := some 3, span := 0, request := 2000, iMin := 800, spanOpen := true
                   spanOccupied := false } }

theorem test_computation_of_7_7_3 :
    snap773.outcome = .met ∧ snap773.heldOrTargets = [2500, 1800] ∧ snap773.charges = [2500, 1800] ∧
      shares snap773.committedLoad = (1978, 2323) ∧
      snap773.grantEntries.map GrantEntry.estimate = [2525, 2538] ∧ snap773.raiseAmount = 0 := by decide +kernel

/-- The frame of chapter 10, 10.7: SET_PARAM is 8 bytes long. -/
theorem test_set_param_frame_has_8_bytes :
    (requestFrame (.setParam 1 2000)).map (fun x => (x.1, x.2.length)) = some (.dispatch, 8) := by decide +kernel

/-- The pass speed of R91: shoe length 1,200 mm and a width of 120 ms give 10,000 mm/s; the clamps. -/
theorem test_pass_speeds :
    passSpeed 1200 120 false = 10000 ∧ passSpeed 1200 20 false = 15000 ∧ passSpeed 300 5000 false = 500 ∧
      passSpeed 1200 120 true = 500 := by decide +kernel

/-- The time base wraps from 4,294,967,295 to 0, and a deadline behind the wrap lies ahead (R155). -/
theorem test_time_base_wraps :
    (4294967295 : Time) + 1 = 0 ∧ ahead 5 4294967290 = true ∧ ahead 4294967290 5 = false ∧
      reached 2147483648 0 = true ∧ ahead 2147483647 0 = true := by decide +kernel

/-! ### Hypotheses met -/

theorem test_step_with_a_command_waiting :
    ({ State.reset with pending := [.run, .stop] } : State).pending = .run :: [.stop] := rfl

theorem test_tick_meets :
    State.reset.pending = [] ∧ State.reset.coldReset = false ∧
      ({ State.reset with coldReset := true } : State).pending = [] ∧ State.reset.dueEvents = [] ∧
      busy.pending = [] ∧ busy.coldReset = false ∧ busy.dueEvents ≠ [] := by decide +kernel

/-- A truck's silent hold and next-joint deadline in one millisecond, the hold taken first: the entry becomes phantom 3,
and its deadline still passes in that millisecond, with the lost deadline counted from it (R76, R83, R93). -/
theorem test_converted_entry_becomes_stale_in_its_millisecond :
    let held := next (.nextJointDeadline (.truck 4)) (next (.silentHoldDeadline 4) busy)
    held.tick.now = busy.now ∧ Instr.nextJointDeadline (.phantom 2) ∈ held.dueEvents ∧
      ((next (.nextJointDeadline (.phantom 2)) held).line.find? fun e => e.isPhantomNo 2) =
        some { phantomOf 2 1 (some (4, 5)) with
          kind := .phantom 2 2500 (after 100000 (held.params.phantomHold * 1000)) (some (4, 5))
          conf := .stale, nextJoint := none, lost := some 105000 } := by decide +kernel

theorem test_commands_out_of_place_meet :
    let sending : State := { State.reset with dispatchPort := { tx := some ⟨.slot 0 none, 0⟩ } }
    requestParts .run = some (.dispatch, .run, []) ∧ sending.hears .dispatch = false ∧
      (sending.port .dispatch).rx = .hunt ∧
      (State.reset.channel 0).state ≠ .trailing ∧ (State.reset.channel 0).state = .idle ∧
      State.reset.feedA.feed.state = .noReport ∧ State.reset.feedB.shed.state = .none ∧
      (State.reset.truck 11).state = .free ∧ due (State.reset.truck 11).holdoff State.reset.now = false ∧
      due State.reset.spacing State.reset.now = false ∧ State.reset.line = [] ∧ State.reset.sect ≠ .running ∧
      State.reset.inFlight = none ∧ State.reset.store = .idle ∧ State.reset.coldReset = false ∧
      State.reset.warmAsked = false ∧
      (let s : State := { State.reset with truckPort := { rx := .kind 0, lost := [0] }, now := 49 }
       (s.port .truck).rx.start = some 0 ∧ (s.port .truck).lost.head? = some 0) ∧
      ({ State.reset with warmHold := true } : State).inReset = true ∧
      (((49 : Time) - 0).toNat < 50 ∧ (40 : Byte).toNat ≤ 40) ∧
      (({ State.reset with warmHold := true } : State).coldReset = false ∧
        ({ State.reset with warmHold := true } : State).warmHold = true) ∧
      ((busy.channel 0).state = .present ∧ (busy.channel 5).state ≠ .present) := by decide +kernel

theorem test_join_meets_each_case :
    busy.hears .truck = true ∧ (busy.Holds 0 1 ∧ ∀ j < (0 : Slot), ¬busy.Holds j 1) ∧
      (∀ j, ¬busy.Holds j 65535) ∧ ((busy.truck 6).state = .free ∧ ∀ j < (6 : Slot), (busy.truck j).state ≠ .free) ∧
      crowded.hears .truck = true ∧ (∀ j, ¬crowded.Holds j 65535) ∧ ∀ j, (crowded.truck j).state ≠ .free := by
  simp only [State.Holds]; decide +kernel

theorem test_unenrolled_frames_meet :
    busy.hears .truck = true ∧ (∀ k : Slot, (0 : Byte).toNat = k.val + 1 → ¬busy.Holds k 1) ∧
      (∀ k : Slot, (13 : Byte).toNat = k.val + 1 → ¬busy.Holds k 1) ∧
      (∀ k : Slot, (12 : Byte).toNat = k.val + 1 → ¬busy.Holds k 1) ∧
      ∀ k : Slot, (1 : Byte).toNat = k.val + 1 → ¬busy.Holds k 2 := by
  simp only [State.Holds]; decide +kernel

/-- A truck in each state holds its slot with its fleet number: the hypotheses of STATUS, RAISE, CANCEL and LEAVE. -/
theorem test_frames_of_enrolled_trucks_meet :
    busy.hears .truck = true ∧ (1 : Byte).toNat = (0 : Slot).val + 1 ∧ (6 : Byte).toNat = (5 : Slot).val + 1 ∧
      (busy.Holds 0 1 ∧ (busy.truck 0).state = .drawing) ∧ (busy.Holds 1 2 ∧ (busy.truck 1).state = .queued) ∧
      (busy.Holds 2 3 ∧ (busy.truck 2).state = .raisePending) ∧ (busy.Holds 3 4 ∧ (busy.truck 3).state = .lowering) ∧
      (busy.Holds 4 5 ∧ (busy.truck 4).state = .silent) ∧ (busy.Holds 5 6 ∧ (busy.truck 5).state = .standby) ∧
      (busy.sect = .running ∧ ({ busy with sect := .stopped } : State).hears .truck = true) := by
  simp only [State.Holds]; decide +kernel

theorem test_limit_answer_meets :
    busy.n = some 6 ∧ (busy.queue = [] ++ ⟨1, 5, false⟩ :: [] ∧ (busy.truck 1).state = .queued) ∧
      ((busy.truck 2).state.inLine = true ∧ busy.line.find? (fun e => e.isTruckOf 2) = some (entryOf 2 3)) ∧
      (busy.spanState 3 = .opened ∧ busy.spanState 4 ≠ .opened) ∧
      (busy.line.find? (fun e => e.isTruckOf 3) = some (entryOf 3 2) ∧ busy.spanState 2 ≠ .opened) ∧
      busy.spanState 5 = .opened ∧ State.reset.n = none := by decide +kernel

/-- RAISE with no check that fails, from STANDBY and from QUEUED; and with one that fails. -/
theorem test_raise_meets :
    let free : State := { busy with
      trucks := (busy.trucks.set 5 { truckIn 6 .standby with holdoff := none }).set 1
        { truckIn 2 .queued with holdoff := none } }
    let checks := fun (s : State) (k : Slot) (span : Byte) => s.raiseRefusal k span.toNat
    free.hears .truck = true ∧ checks free 5 5 = none ∧ checks free 1 5 = none ∧ checks busy 5 5 = some .holdoff ∧
      checks busy 5 6 = some .spanInvalid ∧ checks free 5 4 = some .spanBarred ∧
      checks free 5 3 = some .spanOccupied ∧ checks free 0 5 = some .wrongState := by decide +kernel

theorem test_feed_reports_meet :
    busy.hears .feedA = true ∧ busy.hears .feedB = true ∧ (1 : Byte) ≠ 2 ∧ busy.feedA.feed.state = .inService ∧
      busy.feedB.feed.state = .late ∧ (0 : Byte) ≠ 1 := by decide +kernel

/-- The DEMAND of a report shows the shed capacity in force while the shed is PENDING, DONE or FAILED (R48). -/
theorem test_demand_shows_the_shed_in_force :
    let sent := fun shed : ShedState =>
      let s : State := { busy with feedA := { busy.feedA with shed := { state := shed, capacity := 1500 } } }
      ((next (.feedReport .a 1 2600 3000 1 0) s).feedPortA.tx.map fun x => x.answer.payload.drop 4)
    [ShedState.none, .pending, .done, .failed].map sent =
      [some [0, 0xFF, 0xFF, 0, 1], some [1, 5, 0xDC, 0, 1], some [2, 5, 0xDC, 0, 1], some [3, 5, 0xDC, 0, 1]] := by
  decide +kernel

theorem test_feed_deadlines_meet :
    (due busy.feedA.feed.lateDeadline busy.now = true ∧ busy.feedA.feed.state = .inService) ∧
      (due busy.feedB.feed.outDeadline busy.now = true ∧ busy.feedB.feed.state = .late) ∧
      let s : State := { busy with feedA := { busy.feedA with shed := ⟨.pending, 1500, some 100000⟩ } }
      due s.feedA.shed.deadline s.now = true ∧ s.feedA.shed.state = .pending := by decide +kernel

/-- Every pair of feed conditions that FeedFiguresDerived tells apart. -/
theorem test_feed_figures_meet :
    let s := fun a b : FeedState =>
      ({ busy with feedA := { feed := { state := a } }, feedB := { feed := { state := b } } } : State)
    (s .inService .late).feedMode = .both ∧ (s .late .out).feedMode = .aOnly ∧ (s .noReport .inService).feedMode = .bOnly ∧
      (s .out .noReport).feedMode = .none := by decide +kernel

/-- SET_SPAN and SET_SPAN_COUNT, refused by each check and taken; span 15 is the last. -/
theorem test_geometry_writes_meet :
    busy.hears .dispatch = true ∧ busy.sect = .running ∧
      ({ busy with store := .writing 0 } : State).hears .dispatch = true ∧ 15 < (16 : Byte).toNat ∧
      (let s : State := { busy with sect := .stopped }
       s.hears .dispatch = true ∧ s.line.isEmpty = false) ∧
      State.reset.hears .dispatch = true ∧ State.reset.store = .idle ∧ State.reset.sect ≠ .running ∧
      State.reset.line = [] ∧ (15 : Byte).toNat < 16 ∧ State.reset.valid = false ∧
      (busy.valid = true ∧ busy.spanCount = some 6 ∧ busy.n = some 6 ∧ 5 < 6) := by decide +kernel

/-- The first and the last parameter number, and the numbers on either side of them. -/
theorem test_set_param_meets :
    State.reset.hears .dispatch = true ∧ State.reset.store = .idle ∧ (0 : Byte).toNat = 0 ∧ 23 < (24 : Byte).toNat ∧
      (1 ≤ (1 : Byte).toNat ∧ (23 : Byte).toNat ≤ 23) ∧
      ({ State.reset with store := .writing 0 } : State).hears .dispatch = true ∧
      (paramRange State.reset.params 14 = some (600, 10000) ∧ paramRange State.reset.params 23 = some (500, 10000)) := by
  decide +kernel

theorem test_store_meets :
    let s : State := { busy with store := .writing 5 }
    s.hears .dispatch = true ∧ s.store ≠ .idle ∧ State.reset.hears .dispatch = true ∧ State.reset.store = .idle ∧
      State.reset.valid = false ∧ busy.hears .dispatch = true ∧ busy.store = .idle ∧ busy.valid = true := by decide +kernel

theorem test_run_and_stop_meet :
    busy.hears .dispatch = true ∧ busy.sect = .running ∧ State.reset.hears .dispatch = true ∧
      State.reset.sect = .unconfigured ∧ ({ busy with sect := .stopped } : State).hears .dispatch = true := by decide +kernel

/-- A cold reset in progress, with a stored copy that fails its check and with one that passes it. -/
def inCold : State := { State.reset with coldReset := true }

theorem test_cold_reset_end_meets :
    (inCold.coldReset = true ∧ inCold.HeldInReset ∧ inCold.stored.passes = false) ∧
      ({ inCold with stored := inCold.workingCopy } : State).HeldInReset ∧ inCold.workingCopy.passes = true :=
  ⟨⟨rfl, ⟨fun _ => rfl, by decide⟩, test_never_written_copy_fails⟩,
    ⟨fun _ => rfl, by decide⟩, workingCopy_passes _⟩

theorem test_warm_resets_meet :
    ({ busy with coldReset := true } : State).coldReset = true ∧ busy.coldReset = false ∧ busy.warmHold = false ∧
      ({ busy with warmHold := true } : State).warmHold = true ∧ ({ busy with warmAsked := true } : State).warmAsked = true ∧
      busy.channel 9 = {} := by decide +kernel

theorem test_isolation_steps_meet :
    busy.hears .dispatch = true ∧ busy.inSection (6 : Byte).toNat = false ∧ busy.inSection (5 : Byte).toNat = true ∧
      busy.isoSeq = .none ∧ ({ busy with isoSeq := .fromSet 5 } : State).isoSeq = .fromSet 5 ∧
      (5 : Nat) ≤ (5 : Byte).toNat ∧ (4 : Byte).toNat < 5 ∧
      ({ busy with isoSeq := .toSet 0 15 } : State).hears .dispatch = true ∧ (15 : Nat) < 16 := by decide +kernel

theorem test_restore_meets :
    busy.inSection (0 : Byte).toNat = true ∧ busy.inSection (5 : Byte).toNat = true ∧ (0 : Byte).toNat ≤ (5 : Byte).toNat ∧
      (5 : Byte).toNat ≤ (5 : Byte).toNat ∧ (4 : Byte).toNat < (5 : Byte).toNat ∧
      busy.inSection (6 : Byte).toNat = false := by decide +kernel

/-- A request that abandons the sequence, a refused ISO_TO and ISO_APPLY, a query, and a request of another port. -/
theorem test_other_requests_meet :
    let refusedWith := fun c : Instr => match ((next c busy).dispatchPort.tx.map Sending.answer) with
      | some (.refused _ _ flag) => some flag
      | _ => none
    busy.hears .dispatch = true ∧ requestParts (.clearPhantom 0) = some (.dispatch, .clearPhantom, [0]) ∧
      requestParts (.isoTo 200) = some (.dispatch, .isoTo, [200]) ∧
      refusedWith (.isoTo 200) = some (busy.isoSeq != .none) ∧
      requestParts (.querySection 0) = some (.dispatch, .querySection, [0]) ∧
      requestParts (.join 7) = some (.truck, .join, [0, 7]) := by decide +kernel

/-- The first and the last part of each report, and the parts just beyond. -/
theorem test_queries_meet :
    let answered := fun c : Instr => match ((next c busy).dispatchPort.tx.map Sending.answer) with
      | some (.report _ _ _) => true
      | _ => false
    busy.hears .dispatch = true ∧ busy.queue.length ≤ 12 ∧
      answered (.querySection 0) = true ∧ answered (.querySection 1) = false ∧
      answered (.queryTrucks 24) = true ∧ answered (.queryTrucks 25) = false ∧
      answered (.queryLine 6) = true ∧ answered (.queryLine 7) = false ∧ answered (.queryLine 17) = true ∧
      answered (.queryLine 33) = true ∧ answered (.queryLine 34) = false ∧
      answered (.queryFeeds 2) = true ∧ answered (.queryFeeds 3) = false ∧
      answered (.querySpans 16) = true ∧ answered (.querySpans 17) = false ∧
      answered (.queryGrants 0) = true ∧ answered (.queryGrants 1) = false ∧ answered (.queryGrants 17) = true ∧
      answered (.queryGrants 18) = false ∧
      (busy.line[(1 : Byte).toNat - 1]? = some (entryOf 0 4) ∧
        busy.line[(5 : Byte).toNat - 1]? = some (phantomOf 0 1 (some (0, 1)))) ∧
      ({ busy with grants := { entries := [⟨.truck 0, 4, 4, 2000, 2000, 2400⟩] } } : State).grants.entries[(1 : Byte).toNat - 1]?
        = some ⟨.truck 0, 4, 4, 2000, 2000, 2400⟩ := by decide +kernel

/-- An optional item present, an optional item absent and an item that is always sent. -/
theorem test_report_contents_meet :
    let items := [item1 7, itemTime (some 258), itemOpt 2 none]
    items.filterMap (fun x => x.mark) = [true, false] ∧
      contents items = [0, 1, 7, 0, 0, 1, 2, 0, 0] := by decide +kernel

theorem test_clear_phantom_meets :
    busy.hears .dispatch = true ∧ busy.line.any (fun e => e.isPhantomNo 0) = true ∧
      busy.line.any (fun e => e.isPhantomNo 3) = false ∧ State.reset.line.any Entry.isPhantom = false := by decide +kernel

/-- EVICT: each state, the room for a phantom and the lack of it, and the fields that name no slot. -/
theorem test_evict_meets :
    busy.hears .dispatch = true ∧ (7 : Byte).toNat = (6 : Slot).val + 1 ∧ (busy.truck 6).state = .free ∧
      (busy.truck 5).state = .standby ∧ (busy.truck 1).state = .queued ∧
      ((busy.truck 2).state.inLine = true ∧
        busy.line = [entryOf 0 4] ++ entryOf 2 3 :: [entryOf 3 2, entryOf 4 1, phantomOf 0 1 (some (0, 1)),
          { phantomOf 1 0 none with conf := .stale }] ∧ phantomsIn busy.line < 4 ∧
        (∀ x ∈ busy.line, x.isPhantomNo 2 = false) ∧ ∀ m < (2 : PhantomNo), ∃ x ∈ busy.line, x.isPhantomNo m = true) ∧
      4 ≤ phantomsIn full.line ∧ (0 : Byte).toNat = 0 ∧ 12 < (13 : Byte).toNat := by decide +kernel

theorem test_detector_edges_meet :
    ({ busy with warmHold := true } : State).inReset = true ∧ busy.inReset = false ∧ (busy.channel 1).state = .idle ∧
      (busy.channel 5).state = .trailing ∧ (busy.channel 0).state = .present := by decide +kernel

/-- A pass at joint 5 as wide as the minimum completes, one at joint 6 narrower by 1 ms does not, joint 7 is spent. -/
theorem test_passes_complete :
    busy.PassCompletes (.blankingDeadline 5) 5 15000
        { busy.channel 5 with state := .idle, rise := none, blanking := none, overlong := none } ∧
      busy.PassCompletes (.overlongDeadline 0) 0 500 { busy.channel 0 with spent := true, overlong := none } ∧
      busy.PassCompletes (.overlongDeadline 5) 5 500 { busy.channel 5 with
        state := .idle, spent := false, rise := none, blanking := none, overlong := none } :=
  ⟨.inl ⟨rfl, by decide +kernel, by decide +kernel, by decide +kernel, ⟨99900, 99920, by decide +kernel⟩, rfl⟩,
    .inr (.inl ⟨rfl, by decide +kernel, by decide +kernel, rfl, rfl⟩), .inr (.inr ⟨rfl, by decide +kernel, by decide +kernel, rfl, rfl⟩)⟩

theorem test_passes_without_effect_meet :
    (due (busy.channel 7).blanking busy.now = true ∧ (busy.channel 7).state = .trailing ∧ (busy.channel 7).spent = true) ∧
      (due (busy.channel 6).blanking busy.now = true ∧ (busy.channel 6).state = .trailing ∧
        (busy.channel 6).spent = false ∧ (busy.channel 6).rise = some 99900 ∧ (busy.channel 6).lastFall = some 99919 ∧
        (99919 - 99900 : Time).toNat < busy.params.minPass) ∧
      ({ busy with spanCount := none } : State).n = none ∧
      (({ busy with spanCount := some 4 } : State).n = some 4 ∧ 4 < (5 : Joint).val) := by decide +kernel

/-- The pass of `test_passes_complete` at joint 5, below N and at N = 5; joint 0; and no entry on the span below. -/
theorem test_pass_attribution_meets :
    busy.n = some 6 ∧ (5 : Joint).val ≤ 6 ∧ busy.line = [] ++ entryOf 0 4 :: [entryOf 2 3, entryOf 3 2, entryOf 4 1,
        phantomOf 0 1 (some (0, 1)), { phantomOf 1 0 none with conf := .stale }] ∧
      (entryOf 0 4).span + 1 = (5 : Joint).val ∧ ({ busy with spanCount := some 5 } : State).n = some 5 ∧
      (({ busy with line := [] } : State).line = [] ∧ 1 ≤ (6 : Nat)) ∧ (0 : Joint).val = 0 ∧
      (phantomsIn busy.line < 4 ∧ (∀ x ∈ busy.line, x.isPhantomNo 2 = false) ∧
        ∀ p < (2 : PhantomNo), ∃ x ∈ busy.line, x.isPhantomNo p = true) ∧ 4 ≤ phantomsIn full.line := by decide +kernel

/-- A KNOWN entry of a truck and of a phantom, and a STALE one, each alone under its name. -/
theorem test_entry_deadlines_meet :
    (busy.line = [entryOf 0 4] ++ entryOf 2 3 :: [entryOf 3 2, entryOf 4 1, phantomOf 0 1 (some (0, 1)),
        { phantomOf 1 0 none with conf := .stale }] ∧ (entryOf 2 3).isRef (.truck 2) = true ∧
      due (entryOf 2 3).nextJoint busy.now = true ∧ (entryOf 2 3).conf = .known ∧ (entryOf 2 3).stale = some 5000) ∧
      (∀ x ∈ busy.line, x.isRef (.phantom 1) = true → x = { phantomOf 1 0 none with conf := .stale }) ∧
      (due (phantomOf 1 0 none).lost busy.now = true ∧ due (some (100000 : Time)) busy.now = true) ∧
      (let e := { entryOf 0 4 with conf := .stale }
       due e.lost busy.now = true ∧ e.conf = .stale ∧ e.isRef (.truck 0) = true) := by decide +kernel

theorem test_truck_timers_meet :
    (due (busy.truck 5).idle busy.now = true ∧ (busy.truck 5).state = .standby) ∧
      due (busy.truck 5).holdoff busy.now = true ∧
      (due (busy.truck 1).queueWait busy.now = true ∧ (busy.truck 1).state = .queued) ∧
      due busy.spacing busy.now = true ∧
      (due (busy.truck 0).silence busy.now = true ∧ (busy.truck 0).state = .drawing) ∧
      (due (busy.truck 3).lowerConfirm busy.now = true ∧ (busy.truck 3).state = .lowering) ∧
      due (busy.truck 0).cutAck busy.now = true := by decide +kernel

theorem test_unconfirmed_trucks_meet :
    (busy.truck 2).fleet = some 3 ∧ (entryOf 2 3).isTruckOf 2 = true ∧
      (∀ x ∈ [entryOf 0 4] ++ [entryOf 3 2, entryOf 4 1, phantomOf 0 1 (some (0, 1)),
        { phantomOf 1 0 none with conf := .stale }], x.isTruckOf 2 = false) ∧
      (due (busy.truck 2).raiseConfirm busy.now = true ∧ (busy.truck 2).state = .raisePending) ∧
      (busy.truck 4).fleet = some 5 ∧
      (due (busy.truck 4).silentHold busy.now = true ∧ (busy.truck 4).state = .silent) := by decide +kernel

theorem test_cycle_meets : busy.cycle = some 100000 ∧ due busy.cycle busy.now = true ∧ busy.sect = .running := by decide +kernel

/-- The computation of 7.7.3 in flight, in RUNNING and outside; X DRAWING throughout. -/
def computing : State :=
  { section6 with
    inFlight := some snap773
    trucks := #v[{ truckIn 1 .drawing with throughout := true }, { truckIn 2 .drawing with throughout := true },
      { truckIn 3 .queued with holdoff := none }, {}, {}, {}, {}, {}, {}, {}, {}, {}]
    line := [entryOf 0 4, entryOf 1 1], queue := [⟨2, 0, false⟩] }

/-- What the membership clauses ask for: a computation 40 ms old, a store write 400 ms old, answers that have ended (JOIN's
takes 2 ms at the most), one asked to reset; a command of each kind that is no event. -/
theorem test_due_events_meet :
    (({ computing with now := 50340 } : State).inFlight = some snap773 ∧ 40 ≤ (50340 - snap773.time : Time).toNat) ∧
      (({ State.reset with store := .writing 5, now := 405 } : State).store = .writing 5 ∧ 400 ≤ (405 - 5 : Time).toNat) ∧
      (let x : Sending := ⟨.slot 1 none, 0⟩
       x.answer.frame.length * 10000 ≤ (2 - x.since).toNat * 57600) ∧
      (let s : State := { State.reset with warmAsked := true, dispatchPort := { tx := some ⟨.ack .warmReset false [], 0⟩ } }
       s.warmAsked = true ∧ s.dispatchPort.tx ≠ none ∧ State.reset.dispatchPort.tx = none) ∧
      (requestParts .run).isSome = true := by decide +kernel

theorem test_commit_meets :
    computing.inFlight = some snap773 ∧ computing.sect = .running ∧
      snap773.entries.Pairwise (fun a b => a.who ≠ b.who) ∧ ({ computing with sect := .stopped } : State).sect ≠ .running ∧
      (snap773.entries[0]? = some ⟨.truck 0 (some 1) .drawing 2500 1000 2500, 4, .known, 4⟩ ∧
        snap773.heldOrTargets[0]? = some 2500 ∧ snap773.charges[0]? = some 2500 ∧
        (computing.truck 0).state = .drawing ∧ (computing.truck 0).throughout = true ∧
        (computing.truck 0).fleet = some 1) := by decide +kernel

/-- With capacity 3,000 A at substation A and a request W can be given, the computation grants a raise; it is applied. -/
def granting : Snapshot :=
  { snap773 with capA := 3000, head := snap773.head.map fun h => { h with iMin := 200 } }

theorem test_raise_grant_meets :
    granting.grant = some ({ slot := 2, fleet := some 3, span := 0, request := 2000, iMin := 200, spanOpen := true
                             spanOccupied := false }, 250) ∧
      snap773.grant = none ∧
      (computing.truck 2).state = .queued ∧ (computing.truck 2).fleet = some 3 ∧
      computing.queue.head? = some ⟨2, 0, false⟩ ∧ computing.spanState 0 = .opened ∧ computing.occupied 0 = false ∧
      ({ computing with queue := [⟨2, 0, true⟩] } : State).queue.head? ≠ some ⟨2, 0, false⟩ := by decide +kernel

/-- A phantom comes onto the span of the grant after the snapshot and is cleared before the commit: the span is unoccupied
at both, and the grant is discarded all the same (R111, R135); without it the grant is applied. -/
theorem test_span_that_gained_an_entry_discards_the_grant :
    let s : State := { computing with inFlight := some granting, channels := computing.channels.set 0 (trailing 99920) }
    let passed := next (.clearPhantom 0) (next (.blankingDeadline 0) s)
    (passed.occupied 0 = false ∧ passed.queue = [⟨2, 0, true⟩] ∧ passed.inFlight = some granting) ∧
      (next .commit passed).grants.grant = some ⟨2, 0, 250, false⟩ ∧
      (next .commit s).grants.grant = some ⟨2, 0, 250, true⟩ := by decide +kernel

/-- The outcomes of a computation: MET, BREACHED by capacity, OVERFLOW. -/
theorem test_outcomes_meet :
    granting.outcome = .met ∧ ({ snap773 with overflow := true } : Snapshot).outcome = .overflow ∧
      ({ snap773 with
        capA := 0
        entries := [⟨.truck 0 (some 1) .lowering 2500 1000 2500, 4, .known, 4⟩] } : Snapshot).outcome = .breached ∧
      snap773.heldOrTargets[1]? = some 1800 := by decide +kernel

/-- Entries that are not DRAWING keep their held charge, a DRAWING truck whose exposure is above its target is charged
it, and a request below 200 A has target 0. -/
theorem test_charges_meet :
    let x : Snapshot := { granting with
      entries := [⟨.truck 0 (some 1) .drawing 199 200 2500, 4, .known, 4⟩, ⟨.truck 1 (some 2) .silent 2800 1000 300, 1, .known, 1⟩,
        ⟨.phantom 0 400, 0, .stale, 1⟩] }
    x.outcome = .met ∧ x.heldOrTargets = [0, 300, 400] ∧ x.charges = [2500, 300, 400] ∧ 199 < 200 ∧
      (x.entries[2]? = some ⟨.phantom 0 400, 0, .stale, 1⟩) := by decide +kernel

theorem test_drop_statements_meet :
    let rs := [1, 255, 25, 25]
    let inp : InputSet :=
      { mode := .both, vFeed := 2600, vMin := 2200, capA := 3000, capB := 2000, net := some (netOf rs)
        entries := [⟨true, 3, 100⟩, ⟨false, 0, 100⟩] }
    (∀ r ∈ rs, 1 ≤ r ∧ r ≤ 255) ∧ rs ≠ [] ∧ (∀ e ∈ inp.entries, e.span < rs.length) ∧ meetsLimits inp = true ∧
      0 < headroom inp ⟨1, 2800, 200, false⟩ ∧ meetsLimits { inp with vMin := 2600 } = false ∧
      (inp.entries = [] ++ ⟨true, 3, 100⟩ :: [⟨false, 0, 100⟩] ∧ 0 < headroom inp ⟨3, 2800, 200, true⟩) ∧
      meetsFloor { inp with vMin := 2600 } 1 = false ∧ (3 : Nat) + 1 = rs.length ∧ (2 : Nat) + 1 < rs.length ∧
      0 < dropSum .both (netOf rs) inp.entries 0 ∧ inp.mode ≠ .none ∧
      ({ inp with entries := [] } : InputSet).entries = [] := by decide +kernel

/-- Each feed mode, with the capacity checks met and breached by 1 A, and an increment cut by the capacity of its mode. -/
theorem test_limits_of_each_mode :
    let inp := fun (mode : FeedMode) (cap charge : Nat) =>
      ({ mode := mode, vFeed := 2600, vMin := 2200, capA := cap, capB := cap, net := some (netOf [20, 22, 25, 25, 24, 20])
         entries := [⟨false, 2, charge⟩] } : InputSet)
    let limits := fun x : InputSet => (meetsCapA x, meetsCapB x, meetsLimits x)
    limits (inp .aOnly 500 500) = (true, true, true) ∧ limits (inp .aOnly 500 501) = (false, true, false) ∧
      limits (inp .bOnly 500 500) = (true, true, true) ∧ limits (inp .bOnly 500 501) = (true, false, false) ∧
      limits (inp .none 500 0) = (true, true, true) ∧ limits (inp .none 500 1) = (false, false, false) ∧
      limits (inp .both 0 0) = (true, true, true) ∧ limits (inp .both 0 1) = (false, false, false) ∧
      headroom (inp .aOnly 1049 500) ⟨2, 2800, 500, false⟩ = 500 ∧ headroom (inp .aOnly 1049 500) ⟨2, 2800, 501, false⟩ = 0 ∧
      headroom (inp .none 1049 0) ⟨2, 2800, 200, false⟩ = 0 := by decide +kernel

/-- A receiver in each state; length bytes 40 and 41; a frame 50 ms old; a kind of another port and a wrong length. -/
theorem test_receiver_meets :
    let at' := fun rx : Rx => ({ busy with truckPort := { rx := rx } } : State)
    busy.hears .truck = true ∧ (busy.port .truck).rx = .hunt ∧ (at' (.kind 99950)).hears .truck = true ∧
      (40 : Byte).toNat ≤ 40 ∧ 40 < (41 : Byte).toNat ∧ (at' (.length 99950 0x10)).hears .truck = true ∧
      (at' (.body 99950 0x10 2 [1, 2])).hears .truck = true ∧ [1, 2].length + 1 < 2 + 2 ∧
      (Rx.kind 99950).start = some 99950 ∧ 50 ≤ (busy.now - 99950).toNat ∧ ReqKind.run.onPort .truck = false ∧
      ReqKind.join.onPort .truck = true ∧ ([] : List Byte).length ≠ ReqKind.join.length := by decide +kernel

/-- The last check byte of JOIN from fleet 1, right and wrong; of RUN on the truck port; of JOIN without a payload. -/
theorem test_last_byte_meets :
    let at' := fun (k : Byte) (payload : List Byte) =>
      let check := split (frameCheck k payload)
      let s : State := { busy with truckPort := { rx := .body 99990 k payload.length (payload ++ [check.getD 0 0]) } }
      fun lo : Byte => (next (.frameStart .truck ⟨check.getD 1 0 + lo, true⟩) s).truckPort
    (at' 0x10 [0, 1] 0).tx.map Sending.answer = some (.slot 1 none) ∧ (at' 0x10 [0, 1] 1).checkErrors = 1 ∧
      ((at' ReqKind.run.code [] 0).unknownKinds = 1 ∧ ReqKind.run.onPort .truck = false) ∧
      ((at' 0x10 [] 0).checkErrors = 1 ∧ ReqKind.join.code = 0x10) := by decide +kernel

/-- A port that sends, its lost bytes at each place of a frame. -/
def sending (lostRx : Rx) : State :=
  { busy with truckPort := { tx := some ⟨.slot 0 none, 100000⟩, lost := [99950], lostRx := lostRx } }

theorem test_lost_bytes_meet :
    ((sending .hunt).inReset = false ∧ ((sending .hunt).port .truck).tx ≠ none) ∧
      requestParts (.join 1) = some (.truck, .join, [0, 1]) ∧
      ((sending .hunt).port .truck).lostRx = .hunt ∧ ((sending (.kind 1)).port .truck).lostRx = .kind 1 ∧
      ((sending (.length 1 2)).port .truck).lostRx = .length 1 2 ∧
      ((sending (.body 1 2 0 [3])).port .truck).lostRx = .body 1 2 0 [3] ∧
      ((sending .hunt).port .truck).rx.start = none ∧ ((sending .hunt).port .truck).lost = 99950 :: [] ∧
      50 ≤ ((sending .hunt).now - 99950).toNat := by decide +kernel

/-- A request lost while its port sends is counted as a frame that runs out of time, once, 50 ms later (R158, R159): the
event is due then and not before, and the 0xA5 in its payload starts no second one. -/
theorem test_lost_request_runs_out_of_time :
    let quiet : State := { State.reset with truckPort := { tx := some ⟨.slot 0 none, 0⟩ } }
    let lost := next (.answerSent .truck) (quiet.receive .truck [0xA5, 0x10, 2, 0xA5, 0xA5, 0, 0])
    let late : State := { lost with now := 50 }
    (lost.truckPort.lost = [0] ∧ lost.truckPort.rx = .hunt ∧ lost.truckPort.checkErrors = 0) ∧
      ({ lost with now := 49 } : State).dueEvents = [] ∧ late.dueEvents = [.frameTimeout .truck] ∧
      ((next (.frameTimeout .truck) late).truckPort.checkErrors = 1 ∧
        (next (.frameTimeout .truck) late).dueEvents = []) := by decide +kernel

theorem test_frame_reception_meets :
    requestParts (.setParam 1 2000) = some (.dispatch, .setParam, [1, 7, 208]) ∧ busy.hears .dispatch = true ∧
      (busy.port .dispatch).rx = .hunt ∧
      examine .dispatch 0x32 [1, 7, 208] (frameCheck 0x32 [1, 7, 208]) = .taken (.setParam 1 2000) ∧
      (let s : State := { busy with dispatchPort := { tx := some ⟨.slot 0 none, 100000⟩ } }
       s.inReset = false ∧ (s.port .dispatch).tx ≠ none ∧ (s.port .dispatch).lostRx = .hunt) := by decide +kernel

/-- A state in which every promise of Safety.lean holds, with a truck in every state, two phantoms and a PENDING_BAR span. -/
def sound : State :=
  let free := fun (f : U16) (st : TruckState) (issued : Nat) => { truckIn f st with issued := issued }
  { section6 with
    trucks := #v[free 1 .drawing 2000, free 2 .queued 0, free 3 .raisePending 1000, free 4 .lowering 0,
      free 5 .silent 500, free 6 .standby 0, {}, {}, {}, {}, {}, {}]
    line := busy.line, phantomCount := 2, queue := [⟨1, 5, false⟩], isoSeq := .toSet 2 5
    spanStates := (Vector.replicate 16 SpanState.opened).set 2 .pendingBar }

theorem test_invariant_of_ranges_meets : sound.RangesHold ∧ step sound = .next sound.tick := by
  refine ⟨⟨⟨⟨?_, ?_⟩, ⟨?_, ?_⟩, ?_⟩, ?_, ?_, ?_, ?_⟩, rfl⟩
  · unfold Params.InRange; decide +kernel
  · unfold Params.InRange; decide +kernel
  · intro m h
    have : m = 6 := by injection h with h; exact h.symm
    omega
  · intro m h; cases h
  · simp only [SpanRec.InRange]; decide +kernel
  · intro p; cases p <;> decide
  · simp only [Truck.CurrentsInRange]; decide +kernel
  · decide +kernel
  · intro x h; cases h

theorem test_invariant_of_places_meets : sound.PlacesHold ∧ step sound = .next sound.tick := by
  refine ⟨⟨?_, ⟨?_, ?_, ?_⟩, ?_⟩, rfl⟩
  · simp only [State.PlacesAgree]; decide +kernel
  · decide +kernel
  · have h : ∀ k, (sound.truck k).state ≠ .free → (sound.truck k).fleet = some (BitVec.ofNat 16 (k.val + 1)) ∧
        BitVec.ofNat 16 (k.val + 1) ≠ 0 := by decide +kernel
    exact fun k hk => ⟨_, h k hk⟩
  · have h : ∀ j k, (sound.truck j).state ≠ .free → (sound.truck j).fleet = (sound.truck k).fleet → j = k := by
      decide +kernel
    exact fun j k f hj hk => h j k hj.1 (hj.2.trans hk.2.symm)
  · simp only [State.LineInOrder]; decide +kernel

theorem test_invariant_of_the_section_meets :
    sound.SectionHolds ∧ step sound = .next sound.tick := by
  refine ⟨⟨?_, ?_, ?_, ?_, ?_, ?_⟩, rfl⟩
  · exact ⟨fun h => absurd h (by decide), by decide⟩
  · exact ⟨by decide +kernel, fun h => absurd rfl h⟩
  · simp only [State.PlacesInSection]; decide +kernel
  · intro _ i
    rcases Nat.lt_or_ge i 16 with h | h
    · exact (by decide +kernel : ∀ i : Fin 16, sound.spanState i.val = .pendingBar → sound.occupied i.val = true) ⟨i, h⟩
    · intro hp
      simp [State.spanState, Vector.getElem?_eq_none h] at hp
  · exact fun _ => by decide +kernel
  · exact ⟨fun a h => (nomatch h), fun a b h => by cases h; decide +kernel⟩

/-- One truck RAISE_PENDING, and a computation in flight whose snapshot found the gate closed. -/
theorem test_invariant_of_one_raise_meets :
    ({ sound with inFlight := some { snap773 with gate := false } } : State).OneRaisePending := by
  refine ⟨by decide +kernel, fun x h hg => ?_⟩
  injection h with h
  subst h
  cases hg

end Sys2Proof.Tests
end

