-- ==== Sys2Proof/Proofs/ConfigTable.lean ====
section
/-! Chapter 1's configuration writes: how a request that abandons an isolation sequence answers, the checks of R2 as a
list, the parameters as a list of 23 values, and the two obligations settled from them. -/

namespace Sys2Proof.Machine

/-! ### Requests that abandon an isolation sequence (R142) -/

/-- On a port that hears it, such a request is its rule run on the state without the sequence. -/
theorem State.request_abandoning {s s' : State} {p : Port} {rule : Bool → State → State × Answer} {a : Answer}
    (hears : s.hears p = true) (answer : rule s.isoBusy { s with isoSeq := .none } = (s', a)) :
    s.request p (fun u => u.abandoning rule) = s'.send p a := by
  rw [State.request_of_hears _ hears, State.abandoning, answer]

theorem exec_setSpan_of_rule {s s' : State} {index resistance : Byte} {length : U16} {a : Answer}
    (hears : s.hears .dispatch = true)
    (answer : setSpanRule index length resistance s.isoBusy { s with isoSeq := .none } = (s', a)) :
    exec (.setSpan index length resistance) s = .next (s'.send .dispatch a) :=
  congrArg Host.Outcome.next (State.request_abandoning hears answer)

theorem exec_setSpanCount_of_rule {s s' : State} {count : Byte} {a : Answer} (hears : s.hears .dispatch = true)
    (answer : setSpanCountRule count s.isoBusy { s with isoSeq := .none } = (s', a)) :
    exec (.setSpanCount count) s = .next (s'.send .dispatch a) :=
  congrArg Host.Outcome.next (State.request_abandoning hears answer)

theorem exec_setParam_of_rule {s s' : State} {number : Byte} {value : U16} {a : Answer}
    (hears : s.hears .dispatch = true)
    (answer : setParamRule number value s.isoBusy { s with isoSeq := .none } = (s', a)) :
    exec (.setParam number value) s = .next (s'.send .dispatch a) :=
  congrArg Host.Outcome.next (State.request_abandoning hears answer)

theorem State.storeBusy_iff (s : State) : s.storeBusy = true ↔ s.store ≠ .idle := by
  simp [State.storeBusy]

/-! ### The checks of R2 -/

/-- Checks 2 to 4 of R2, each with its reason, in order. -/
def State.geometryChecks (s : State) : List (Bool × Reason) :=
  [(s.store != .idle, .storeBusy), (s.sect == .running, .wrongState), (!s.line.isEmpty, .lineOccupied)]

/-- The reason of the first check that fails. -/
def firstFailing (checks : List (Bool × Reason)) : Option Reason := (checks.find? Prod.fst).map Prod.snd

theorem firstFailing_nil : firstFailing [] = none := rfl

theorem firstFailing_cons (b : Bool) (r : Reason) (rest : List (Bool × Reason)) :
    firstFailing ((b, r) :: rest) = if b then some r else firstFailing rest := by
  cases b <;> rfl

theorem State.geometryRefusal_eq (s : State) : s.geometryRefusal = firstFailing s.geometryChecks := by
  simp [State.geometryRefusal, State.geometryChecks, State.storeBusy, firstFailing_cons, firstFailing_nil]

/-- SET_SPAN is refused by the first check of R2 that fails; its index stands before the others. -/
theorem setSpanRule_refused {s : State} {index resistance : Byte} {length : U16} {flag : Bool} {r : Reason}
    (h : firstFailing ((decide (15 < index.toNat), .spanInvalid) :: s.geometryChecks) = some r) :
    setSpanRule index length resistance flag s = (s, .refused .setSpan r flag) := by
  rw [firstFailing_cons, ← State.geometryRefusal_eq] at h
  unfold setSpanRule
  by_cases hi : 15 < index.toNat
  · obtain rfl : Reason.spanInvalid = r := by simpa [hi] using h
    rw [if_pos hi]
  · have hr : s.geometryRefusal = some r := by simpa [hi] using h
    rw [if_neg hi, hr]

/-- SET_SPAN_COUNT is refused by the first of checks 2 to 4 that fails. -/
theorem setSpanCountRule_refused {s : State} {count : Byte} {flag : Bool} {r : Reason}
    (h : firstFailing s.geometryChecks = some r) :
    setSpanCountRule count flag s = (s, .refused .setSpanCount r flag) := by
  rw [← State.geometryRefusal_eq] at h
  rw [setSpanCountRule, h]

/-- Settles O16: neither check list reads the isolation sequence, so the rules refuse as the lists say. -/
theorem geometryWriteRefused : Obligations.GeometryWriteRefused := by
  intro s hears checks
  exact ⟨fun index resistance length r first => exec_setSpan_of_rule hears (setSpanRule_refused first),
    fun count r first => exec_setSpanCount_of_rule hears (setSpanCountRule_refused first)⟩

/-! ### The parameters by number (R7) -/

/-- The 23 parameter values in the order of R7, so that parameter `i + 1` stands at `i`. -/
def Params.values (p : Params) : List Nat :=
  [p.vMin, p.fallbackCapacity, p.cyclePeriod, p.raiseSpacing, p.raiseConfirm, p.lowerConfirm, p.cutAcknowledge,
   p.silence, p.silentHold, p.standbyIdle, p.queueWait, p.holdoff, p.feedLate, p.feedOut, p.overdrawMargin,
   p.shedTimeout, p.phantomCurrent, p.phantomHold, p.blanking, p.minPass, p.overlong, p.shoeLength, p.staleMargin]

/-- The 23 ranges in the order of R7, the lower bound of parameter 14 that of R8 step 3. -/
def Params.ranges (p : Params) : List (Nat × Nat) :=
  [(1000, 2800), (0, 6000), (50, 500), (200, 5000), (1000, 10000), (1000, 10000), (300, 3000), (500, 5000),
   (1000, 30000), (10, 600), (5, 300), (0, 120), (200, 2000), (max 500 (p.feedLate + 100), 10000), (50, 2000),
   (1000, 20000), (200, 3000), (30, 900), (5, 250), (5, 200), (5, 120), (300, 3000), (500, 10000)]

theorem Params.get_succ (p : Params) {i : Nat} (h : i < 23) : p.get (i + 1) = p.values.getD i 0 := by
  iterate 23 (obtain _ | i := i; · rfl)
  omega

theorem Params.values_put (p : Params) (v : Nat) {i : Nat} (h : i < 23) :
    (p.put (i + 1) v).values = p.values.set i v := by
  iterate 23 (obtain _ | i := i; · rfl)
  omega

theorem paramRange_succ (p : Params) {i : Nat} (h : i < 23) : paramRange p (i + 1) = p.ranges[i]? := by
  iterate 23 (obtain _ | i := i; · rfl)
  omega

/-- A number outside 1 to 23 names no parameter (R8 step 1). -/
theorem paramRange_eq_none (p : Params) {m : Nat} (h : m = 0 ∨ 23 < m) : paramRange p m = none := by
  rcases h with rfl | h
  · rfl
  · obtain ⟨k, rfl⟩ := Nat.exists_eq_add_of_le' h
    rfl

/-- A number from 1 to 23 has the range at its place in R7. -/
theorem paramRange_eq (p : Params) {m : Nat} (h1 : 1 ≤ m) (h2 : m ≤ 23) : paramRange p m = p.ranges[m - 1]? := by
  obtain ⟨i, rfl⟩ := Nat.exists_eq_add_of_le' h1
  exact paramRange_succ p h2

/-- Writing one parameter changes that one and keeps the others. -/
theorem Params.get_put (p : Params) (v : Nat) {m i : Nat} (hm : 1 ≤ m) (hm' : m ≤ 23) (hi : 1 ≤ i) (hi' : i ≤ 23) :
    (p.put m v).get i = if i = m then v else p.get i := by
  obtain ⟨m, rfl⟩ := Nat.exists_eq_add_of_le' hm
  obtain ⟨i, rfl⟩ := Nat.exists_eq_add_of_le' hi
  have inList : m < p.values.length := hm'
  rw [Params.get_succ _ hi', Params.get_succ _ hi', Params.values_put _ _ hm']
  by_cases e : i = m
  · subst e
    simp [inList]
  · simp [e, Ne.symm e]

/-- R9's raise is a write of parameter 14. -/
theorem Params.raiseFeedOut_eq_put (p : Params) :
    p.raiseFeedOut = p.put 14 (max (p.get 14) (p.get 13 + 100)) := rfl

/-! ### SET_PARAM (R8, R9) -/

/-- The parameters once `v` is taken for parameter `m`: its write, and R9's raise after the feed late threshold's. -/
def Params.taken (p : Params) (m v : Nat) : Params :=
  if m = 13 then (p.put m v).raiseFeedOut else p.put m v

theorem Params.get_taken (p : Params) (v : Nat) {m i : Nat} (hm : 1 ≤ m) (hm' : m ≤ 23) (hi : 1 ≤ i) (hi' : i ≤ 23) :
    (p.taken m v).get i =
      if i = m then v else if m = 13 ∧ i = 14 then max (p.get 14) (v + 100) else p.get i := by
  have write {j : Nat} (hj : 1 ≤ j) (hj' : j ≤ 23) := p.get_put v hm hm' hj hj'
  unfold Params.taken
  by_cases late : m = 13
  · subst late
    rw [if_pos rfl, Params.raiseFeedOut_eq_put, Params.get_put _ _ (by omega) (by omega) hi hi', write hi hi',
      write (by omega) (by omega), write (by omega) (by omega)]
    by_cases out : i = 14 <;> simp [out]
  · simp [late, write hi hi']

/-- The clamp and the step of R8 step 3: 10 for parameter 3, 50 for parameter 17, and 1 for the others. -/
theorem takenValue_eq (m lo hi v : Nat) :
    takenValue m lo hi v =
      let step := if m = 3 then 10 else if m = 17 then 50 else 1
      max lo (min hi v) / step * step := by
  unfold takenValue clamp
  split
  · rfl
  · rfl
  · next h3 h17 => simp only [if_neg h3, if_neg h17, Nat.div_one, Nat.mul_one]

theorem setParamRule_noSuchEntry {s : State} {number : Byte} {value : U16} {flag : Bool}
    (h : paramRange s.params number.toNat = none) :
    setParamRule number value flag s = (s, .refused .setParam .noSuchEntry flag) := by
  rw [setParamRule, h]

theorem setParamRule_storeBusy {s : State} {number : Byte} {value : U16} {flag : Bool} {range : Nat × Nat}
    (h : paramRange s.params number.toNat = some range) (busy : s.store ≠ .idle) :
    setParamRule number value flag s = (s, .refused .setParam .storeBusy flag) := by
  simp only [setParamRule, h, (s.storeBusy_iff).2 busy, if_true]

theorem setParamRule_taken {s : State} {number : Byte} {value : U16} {flag : Bool} {lo hi : Nat}
    (h : paramRange s.params number.toNat = some (lo, hi)) (idle : s.store = .idle) :
    setParamRule number value flag s =
      let v := takenValue number.toNat lo hi value.toNat
      ({ s with params := s.params.taken number.toNat v }, .ack .setParam flag (number :: bytes2 v)) := by
  have free : s.storeBusy = false := by simp [State.storeBusy, idle]
  have late : number = 13 ↔ number.toNat = 13 := BitVec.toNat_inj.symm
  simp only [setParamRule, h, free, Params.taken, late, Bool.false_eq_true, if_false]

/-- Settles O18: the number decides whether there is a range, the store whether the write is taken, and `Params.get_taken`
says what the write leaves in each parameter. -/
theorem setParamTaken : Obligations.SetParamTaken := by
  intro s number value hears m p ranges step
  refine ⟨fun outside => ?_, fun h1 h23 busy => ?_, fun lo hi h1 inRange idle => ?_⟩
  · exact exec_setParam_of_rule hears (setParamRule_noSuchEntry (paramRange_eq_none _ outside))
  · have inList : m - 1 < p.ranges.length := by show m - 1 < 23; omega
    have range : paramRange p m = some p.ranges[m - 1] := by
      rw [paramRange_eq p h1 h23, List.getElem?_eq_getElem inList]
    exact exec_setParam_of_rule hears (setParamRule_storeBusy range busy)
  · obtain ⟨inList, -⟩ := List.getElem?_eq_some_iff.1 inRange
    have h23 : m ≤ 23 := Nat.le_of_pred_lt inList
    have range : paramRange p m = some (lo, hi) := (paramRange_eq p h1 h23).trans inRange
    rw [← takenValue_eq m lo hi value.toNat]
    refine ⟨p.taken m _, fun i hi hi' => Params.get_taken p _ h1 h23 hi hi', ?_⟩
    exact exec_setParam_of_rule hears (setParamRule_taken range idle)

end Sys2Proof.Machine
end

