-- ==== Sys2Proof/Proofs/Drop.lean ====
section
/-! Chapter 2, the drop calculator: the resistances of a valid configuration, the transfer resistance, the sums over the
charges, the limit test, the headroom increment, and the five obligations settled from them. -/

namespace Sys2Proof.Machine

/-! ### Rounding up (R37) -/

theorem ceilDiv_le_ceilDiv {a b t : Nat} (h : a ≤ b) : ceilDiv a t ≤ ceilDiv b t :=
  Nat.div_le_div_right (by omega)

/-- A quotient rounded up is the one rounded down, plus one when there is a remainder. -/
theorem ceilDiv_eq_div_add {a b : Nat} (hb : 0 < b) : ceilDiv a b = a / b + if a % b = 0 then 0 else 1 := by
  have parts := Nat.div_add_mod a b
  have small := Nat.mod_lt a hb
  have regroup : a + b - 1 = a % b + b - 1 + b * (a / b) := by omega
  rw [ceilDiv, regroup, Nat.add_mul_div_left _ _ hb, Nat.add_comm (_ / b)]
  congr 1
  by_cases whole : a % b = 0
  · rw [if_pos whole, Nat.div_eq_of_lt (by omega)]
  · rw [if_neg whole, Nat.div_eq_of_lt_le] <;> omega

/-- Two parts of a multiple of `t`, each divided by `t` and rounded up, add up to the quotient, or to one more (R27). -/
theorem ceilDiv_add_ceilDiv {u v t n : Nat} (ht : 0 < t) (h : u + v = t * n) :
    ceilDiv u t + ceilDiv v t = if u % t = 0 then n else n + 1 := by
  have quotients : n = u / t + v / t + if t ≤ u % t + v % t then 1 else 0 := by
    rw [← Nat.add_div ht, h, Nat.mul_div_cancel_left n ht]
  have remainders : (u % t + v % t) % t = 0 := by rw [← Nat.add_mod, h, Nat.mul_mod_right]
  have ru := Nat.mod_lt u ht
  have rv := Nat.mod_lt v ht
  rw [ceilDiv_eq_div_add ht, ceilDiv_eq_div_add ht, quotients]
  by_cases carry : t ≤ u % t + v % t
  · have : (u % t + v % t - t) % t = 0 := by rw [← Nat.mod_eq_sub_mod carry, remainders]
    rw [Nat.mod_eq_of_lt (by omega)] at this
    simp only [if_pos carry]
    split <;> split <;> omega
  · rw [Nat.mod_eq_of_lt (by omega)] at remainders
    simp only [if_neg carry]
    split <;> split <;> omega

/-! ### The resistances of a valid configuration (R6) -/

section Resistances

variable {rs : List Nat} {a b m : Nat}

/-- The sum below a span above `a` takes in span `a` itself. -/
theorem sum_take_add_getD_le (ab : a < b) (hb : b ≤ rs.length) : (rs.take a).sum + rs.getD a 0 ≤ (rs.take b).sum := by
  induction rs generalizing a b with
  | nil => exact absurd (Nat.lt_of_lt_of_le ab hb) (Nat.not_lt_zero a)
  | cons r rs ih =>
    obtain ⟨b, rfl⟩ := Nat.exists_eq_add_of_lt ab
    cases a with
    | zero =>
      rw [List.take_succ_cons, List.sum_cons]
      exact Nat.le_trans (Nat.le_of_eq (Nat.zero_add r)) (Nat.le_add_right r _)
    | succ a =>
      have rest : a + b + 1 ≤ rs.length := by rw [List.length_cons] at hb; omega
      have above := ih (show a < a + b + 1 by omega) rest
      rw [show a + 1 + b + 1 = a + b + 1 + 1 by omega, List.take_succ_cons, List.take_succ_cons, List.sum_cons,
        List.sum_cons, List.getD_cons_succ, Nat.add_assoc]
      exact Nat.add_le_add_left above r

theorem one_le_getD (pos : ∀ r ∈ rs, 1 ≤ r) (hm : m < rs.length) : 1 ≤ rs.getD m 0 := by
  rw [List.getD_eq_getElem?_getD, List.getElem?_eq_getElem hm]
  exact pos _ (List.getElem_mem hm)

theorem netOf_pAt_pos (pos : ∀ r ∈ rs, 1 ≤ r) (hm : m < rs.length) : 0 < (netOf rs).pAt m := by
  rw [netOf_pAt hm]
  have := one_le_getD pos hm
  omega

/-- P(s) stays below T by the resistance of the span at least. -/
theorem netOf_pAt_lt_t (pos : ∀ r ∈ rs, 1 ≤ r) (hm : m < rs.length) : (netOf rs).pAt m < (netOf rs).t := by
  rw [netOf_pAt hm, netOf_t]
  have own := one_le_getD pos hm
  have below := sum_take_add_getD_le hm (Nat.le_refl rs.length)
  rw [List.take_length] at below
  omega

theorem netOf_qAt_pos (pos : ∀ r ∈ rs, 1 ≤ r) (hm : m < rs.length) : 0 < (netOf rs).qAt m := by
  rw [netOf_qAt hm]
  exact Nat.sub_pos_of_lt (netOf_pAt_lt_t pos hm)

theorem netOf_pAt_add_qAt (pos : ∀ r ∈ rs, 1 ≤ r) (hm : m < rs.length) :
    (netOf rs).pAt m + (netOf rs).qAt m = (netOf rs).t := by
  rw [netOf_qAt hm]
  exact Nat.add_sub_cancel' (Nat.le_of_lt (netOf_pAt_lt_t pos hm))

theorem netOf_t_pos (pos : ∀ r ∈ rs, 1 ≤ r) (nonempty : rs ≠ []) : 0 < (netOf rs).t :=
  Nat.zero_lt_of_lt (netOf_pAt_lt_t pos (List.length_pos_iff.2 nonempty))

theorem netOf_pAt_lt (pos : ∀ r ∈ rs, 1 ≤ r) (ab : a < b) (hb : b < rs.length) :
    (netOf rs).pAt a < (netOf rs).pAt b := by
  rw [netOf_pAt (Nat.lt_trans ab hb), netOf_pAt hb]
  have below := sum_take_add_getD_le ab (Nat.le_of_lt hb)
  have own := one_le_getD pos hb
  omega

theorem netOf_qAt_lt (pos : ∀ r ∈ rs, 1 ≤ r) (ab : a < b) (hb : b < rs.length) :
    (netOf rs).qAt b < (netOf rs).qAt a := by
  have rise := netOf_pAt_lt pos ab hb
  have low := netOf_pAt_add_qAt pos (Nat.lt_trans ab hb)
  have high := netOf_pAt_add_qAt pos hb
  omega

theorem netOf_pAt_le (pos : ∀ r ∈ rs, 1 ≤ r) (ab : a ≤ b) (hb : b < rs.length) :
    (netOf rs).pAt a ≤ (netOf rs).pAt b := by
  rcases Nat.eq_or_lt_of_le ab with rfl | ab
  · exact Nat.le_refl _
  · exact Nat.le_of_lt (netOf_pAt_lt pos ab hb)

theorem netOf_qAt_le (pos : ∀ r ∈ rs, 1 ≤ r) (ab : a ≤ b) (hb : b < rs.length) :
    (netOf rs).qAt b ≤ (netOf rs).qAt a := by
  rcases Nat.eq_or_lt_of_le ab with rfl | ab
  · exact Nat.le_refl _
  · exact Nat.le_of_lt (netOf_qAt_lt pos ab hb)

/-- Q(s) from the resistances alone. -/
theorem netOf_qAt_value (hm : m < rs.length) :
    (netOf rs).qAt m = 2 * rs.sum - (2 * (rs.take m).sum + rs.getD m 0) := by
  rw [netOf_qAt hm, netOf_pAt hm]

/-! ### Transfer resistance (R20, R21) -/

theorem transfer_comm (mode : FeedMode) (net : Net) (a b : Nat) : transfer mode net a b = transfer mode net b a := by
  simp only [transfer, Nat.min_comm a b, Nat.max_comm a b]

/-- The transfer resistance in BOTH, the lower span first. -/
theorem transfer_both_of_le (net : Net) (ab : a ≤ b) :
    transfer .both net a b = ceilDiv (net.pAt a * net.qAt b) net.t := by
  simp only [transfer, Nat.min_eq_left ab, Nat.max_eq_right ab]

theorem transfer_aOnly_self (net : Net) (a : Nat) : transfer .aOnly net a a = net.pAt a := by
  simp only [transfer, Nat.min_self]

theorem transfer_bOnly_self (net : Net) (a : Nat) : transfer .bOnly net a a = net.qAt a := by
  simp only [transfer, Nat.max_self]

/-- An ampere on a span drops some voltage at every span in every mode with a feed. -/
theorem transfer_pos (pos : ∀ r ∈ rs, 1 ≤ r) {mode : FeedMode} (fed : mode ≠ .none) (ha : a < rs.length)
    (hb : b < rs.length) : 0 < transfer mode (netOf rs) a b := by
  have lo : 0 < (netOf rs).pAt (min a b) := netOf_pAt_pos pos (by omega)
  have hi : 0 < (netOf rs).qAt (max a b) := netOf_qAt_pos pos (by omega)
  cases mode with
  | both => exact (ceilDiv_pos_iff (Nat.zero_lt_of_lt (netOf_pAt_lt_t pos ha))).2 (Nat.mul_pos lo hi)
  | aOnly => exact lo
  | bOnly => exact hi
  | none => exact absurd rfl fed

/-- The product of two parts is at most a quarter of the square of the whole: with `p = q + d` the difference is `d * d`. -/
theorem four_mul_mul_le_square {p q t : Nat} (parts : p + q ≤ t) : 4 * (p * q) ≤ t * t := by
  have square (q d : Nat) : 4 * ((q + d) * q) ≤ (q + d + q) * (q + d + q) := by
    simp only [Nat.add_mul, Nat.mul_add, Nat.mul_comm d q]
    omega
  refine Nat.le_trans ?_ (Nat.mul_le_mul parts parts)
  rcases Nat.le_total q p with le | le
  · obtain ⟨d, rfl⟩ := Nat.exists_eq_add_of_le le
    exact square q d
  · obtain ⟨d, rfl⟩ := Nat.exists_eq_add_of_le le
    rw [Nat.mul_comm p, Nat.add_comm p (p + d)]
    exact square p d

/-- A quarter of T, rounded up, bounds the transfer resistance in BOTH: P(lo) is at most T - Q(hi). -/
theorem transfer_both_le_quarter (pos : ∀ r ∈ rs, 1 ≤ r) (ha : a < rs.length) (hb : b < rs.length) :
    transfer .both (netOf rs) a b ≤ ((netOf rs).t + 3) / 4 := by
  have low : (netOf rs).pAt (min a b) ≤ (netOf rs).pAt (max a b) := netOf_pAt_le pos (by omega) (by omega)
  have whole := netOf_pAt_add_qAt pos (show max a b < rs.length by omega)
  have positive := netOf_pAt_lt_t pos ha
  simp only [transfer]
  rw [ceilDiv_le_iff (by omega)]
  generalize (netOf rs).pAt (min a b) = p, (netOf rs).qAt (max a b) = q, (netOf rs).t = t at *
  have parts : p + q ≤ t := by omega
  have quarter : t ≤ 4 * ((t + 3) / 4) := by omega
  have square : 4 * (p * q) ≤ 4 * ((t + 3) / 4 * t) := calc
    4 * (p * q) ≤ t * t := four_mul_mul_le_square parts
    _ ≤ 4 * ((t + 3) / 4) * t := Nat.mul_le_mul_right t quarter
    _ = 4 * ((t + 3) / 4 * t) := Nat.mul_assoc ..
  omega

end Resistances

/-- Settles O49: P rises and Q falls along the section, and both stay between 1 and T - 1. -/
theorem transferResistanceBounds : Obligations.TransferResistanceBounds := by
  intro rs valid net t p z
  have pos : ∀ r ∈ rs, 1 ≤ r := fun r hr => (valid r hr).1
  refine ⟨fun a b ha hb => ?_, fun a b c hc ab bc => ?_, fun a b hb ab => ?_⟩
  · have hlo : min a b < rs.length := by omega
    have hhi : max a b < rs.length := by omega
    have lo : net.pAt (min a b) = p (min a b) := netOf_pAt hlo
    have hi : net.qAt (max a b) = t - p (max a b) := netOf_qAt_value hhi
    have loBelow : net.pAt (min a b) < net.t := netOf_pAt_lt_t pos hlo
    have hiWhole : net.pAt (max a b) + net.qAt (max a b) = net.t := netOf_pAt_add_qAt pos hhi
    have hiPos : 0 < net.pAt (max a b) := netOf_pAt_pos pos hhi
    refine ⟨?_, transfer_comm .both net a b, transfer_pos pos nofun ha hb, transfer_both_le_quarter pos ha hb, lo, hi,
      ⟨netOf_pAt_pos pos hlo, Nat.le_pred_of_lt loBelow⟩, netOf_qAt_pos pos hhi, ?_⟩
    · rw [← lo, ← hi]; rfl
    · show net.qAt (max a b) ≤ net.t - 1
      omega
  · have ac := Nat.le_trans ab bc
    constructor
    · show transfer .both net a c ≤ transfer .both net a b
      rw [transfer_both_of_le net ac, transfer_both_of_le net ab]
      exact ceilDiv_le_ceilDiv (Nat.mul_le_mul_left _ (netOf_qAt_le pos bc hc))
    · show transfer .both net c a ≤ transfer .both net c b
      rw [transfer_comm _ _ c a, transfer_comm _ _ c b, transfer_both_of_le net ac, transfer_both_of_le net bc]
      exact ceilDiv_le_ceilDiv (Nat.mul_le_mul_right _ (netOf_pAt_le pos ab (by omega)))
  · rw [transfer_aOnly_self, transfer_aOnly_self, transfer_bOnly_self, transfer_bOnly_self]
    exact ⟨netOf_pAt_lt pos ab hb, netOf_qAt_lt pos ab hb⟩

/-! ### The model span of a STALE entry (R35) -/

theorem modelSpan_known (mode : FeedMode) (net : Net) (s : Nat) : modelSpan mode (some net) .known s = s := rfl

theorem modelSpan_stale_none (net : Net) (s : Nat) : modelSpan .none (some net) .stale s = s := rfl

theorem modelSpan_stale {mode : FeedMode} (fed : mode ≠ .none) (net : Net) (s : Nat) :
    modelSpan mode (some net) .stale s =
      if net.n ≤ s + 1 ∨ transfer mode net (s + 1) (s + 1) < transfer mode net s s then s else s + 1 := by
  have byDef : modelSpan mode (some net) .stale s =
      if s + 1 ≥ net.n then s else if transfer mode net s s > transfer mode net (s + 1) (s + 1) then s else s + 1 := by
    cases mode with
    | none => exact absurd rfl fed
    | _ => rfl
  rw [byDef]
  by_cases top : net.n ≤ s + 1 <;> simp [top]

/-- Settles O51: `modelSpan_stale` compares the self resistances, which rise in A_ONLY and fall in B_ONLY. -/
theorem staleEntryModelSpan : Obligations.StaleEntryModelSpan := by
  intro mode rs i pos hi net
  have below (h : i + 1 < rs.length) : ¬ net.n ≤ i + 1 := by rw [netOf_n]; omega
  refine ⟨modelSpan_known mode net i, fun h => ?_, fun next fed => ⟨fun larger => ?_, fun notLarger => ?_⟩,
    fun next => ⟨?_, ?_⟩⟩
  · by_cases fed : mode = .none
    · rw [fed, modelSpan_stale_none]
    · have top : net.n ≤ i + 1 := Nat.le_of_eq (h.resolve_right fed).symm
      rw [modelSpan_stale fed, if_pos (.inl top)]
  · rw [modelSpan_stale fed, if_pos (.inr larger)]
  · rw [modelSpan_stale fed, if_neg (not_or.2 ⟨below next, Nat.not_lt_of_le notLarger⟩)]
  · have rise : net.pAt i < net.pAt (i + 1) := netOf_pAt_lt pos (Nat.lt_succ_self i) next
    rw [modelSpan_stale (mode := .aOnly) nofun, transfer_aOnly_self, transfer_aOnly_self,
      if_neg (not_or.2 ⟨below next, Nat.not_lt_of_lt rise⟩)]
  · have fall : net.qAt (i + 1) < net.qAt i := netOf_qAt_lt pos (Nat.lt_succ_self i) next
    rw [modelSpan_stale (mode := .bOnly) nofun, transfer_bOnly_self, transfer_bOnly_self, if_pos (.inr fall)]

/-! ### Sums over the charges (R22, R25) -/

/-- The charges added up, each times a weight that depends on its span alone: every sum of chapter 2 is one of these. -/
def chargeSum (weight : Nat → Nat) (es : List Charged) : Nat := (es.map fun e => weight e.span * e.charge).sum

theorem chargeSum_nil (weight : Nat → Nat) : chargeSum weight [] = 0 := rfl

theorem chargeSum_cons (weight : Nat → Nat) (e : Charged) (es : List Charged) :
    chargeSum weight (e :: es) = weight e.span * e.charge + chargeSum weight es := by
  simp [chargeSum]

theorem chargeSum_append (weight : Nat → Nat) (es fs : List Charged) :
    chargeSum weight (es ++ fs) = chargeSum weight es + chargeSum weight fs := by
  simp [chargeSum]

theorem dropSum_eq_chargeSum (mode : FeedMode) (net : Net) (es : List Charged) (m : Nat) :
    dropSum mode net es m = chargeSum (transfer mode net m) es := rfl

theorem loadA_eq_chargeSum (net : Net) (es : List Charged) : loadA net es = chargeSum net.qAt es := by
  simp only [loadA, chargeSum, Nat.mul_comm]

theorem loadB_eq_chargeSum (net : Net) (es : List Charged) : loadB net es = chargeSum net.pAt es := by
  simp only [loadB, chargeSum, Nat.mul_comm]

theorem totalCharge_eq_chargeSum (es : List Charged) : totalCharge es = chargeSum (fun _ => 1) es := by
  simp only [totalCharge, chargeSum, Nat.one_mul]

section Loads

variable {rs : List Nat} {es : List Charged}

/-- U_A from the resistances alone. -/
theorem loadA_netOf (placed : ∀ e ∈ es, e.span < rs.length) :
    loadA (netOf rs) es =
      (es.map fun e => e.charge * (2 * rs.sum - (2 * (rs.take e.span).sum + rs.getD e.span 0))).sum :=
  congrArg List.sum (List.map_congr_left fun e he => by rw [netOf_qAt_value (placed e he)])

/-- U_B from the resistances alone. -/
theorem loadB_netOf (placed : ∀ e ∈ es, e.span < rs.length) :
    loadB (netOf rs) es = (es.map fun e => e.charge * (2 * (rs.take e.span).sum + rs.getD e.span 0)).sum :=
  congrArg List.sum (List.map_congr_left fun e he => by rw [netOf_pAt (placed e he)])

/-- Each ampere is divided between the feeds in whole: P(s) + Q(s) = T (R27). -/
theorem loadA_add_loadB (pos : ∀ r ∈ rs, 1 ≤ r) (placed : ∀ e ∈ es, e.span < rs.length) :
    loadA (netOf rs) es + loadB (netOf rs) es = (netOf rs).t * totalCharge es := by
  induction es with
  | nil => rfl
  | cons e es ih =>
    have own : e.charge * (netOf rs).qAt e.span + e.charge * (netOf rs).pAt e.span = (netOf rs).t * e.charge := by
      rw [← Nat.mul_add, Nat.add_comm, netOf_pAt_add_qAt pos (placed e List.mem_cons_self), Nat.mul_comm]
    have others := ih fun f hf => placed f (List.mem_cons_of_mem e hf)
    simp only [loadA, loadB, totalCharge, List.map_cons, List.sum_cons, Nat.mul_add] at others ⊢
    omega

end Loads

/-! ### The shares (R25 to R27) -/

theorem shares_both {inp : InputSet} {net : Net} (given : inp.net = some net) (mode : inp.mode = .both) :
    shares inp = (ceilDiv (loadA net inp.entries) net.t, ceilDiv (loadB net inp.entries) net.t) := by
  simp only [shares, given, mode]

/-- Settles O48: U_A and U_B add up to T times the sum of the charges (`loadA_add_loadB`). -/
theorem sharesAddUp : Obligations.SharesAddUp := by
  intro inp rs given nonempty pos placed t p total uA uB
  have valueA : loadA (netOf rs) inp.entries = uA := loadA_netOf placed
  have valueB : loadB (netOf rs) inp.entries = uB := loadB_netOf placed
  have whole : uA + uB = t * total := by
    rw [← valueA, ← valueB]
    exact loadA_add_loadB pos placed
  refine ⟨fun mode => ?_, fun mode => ?_, fun mode => ?_, fun mode => ?_⟩
  · rw [shares_both given mode, valueA, valueB]
    exact ⟨rfl, ceilDiv_add_ceilDiv (netOf_t_pos pos nonempty) whole⟩
  all_goals simp only [shares, given, mode]
  all_goals rfl

/-! ### The limit test (R22 to R24, R28) -/

section Limits

variable {inp : InputSet} {net : Net}

theorem dropAt_fed (given : inp.net = some net) (fed : inp.mode ≠ .none) (m : Nat) :
    dropAt inp m = ceilDiv (dropSum inp.mode net inp.entries m) 2000 := by
  simp only [dropAt, given, if_neg fed]

theorem estimateAt_fed (given : inp.net = some net) (fed : inp.mode ≠ .none) (m : Nat) :
    estimateAt inp m = inp.vFeed - dropAt inp m := by
  simp only [estimateAt, given, if_neg fed]

theorem meetsFloor_fed (given : inp.net = some net) (fed : inp.mode ≠ .none) (m : Nat) :
    meetsFloor inp m = true ↔ (dropSum inp.mode net inp.entries m : Int) ≤ voltageBound inp := by
  simp [meetsFloor, given, fed]

theorem meetsFloor_none (mode : inp.mode = .none) (m : Nat) : meetsFloor inp m = true := by
  unfold meetsFloor
  split
  · rfl
  · simp [mode]

theorem meetsCaps_both (given : inp.net = some net) (mode : inp.mode = .both) :
    (meetsCapA inp = true ↔ loadA net inp.entries ≤ net.t * inp.capA) ∧
      (meetsCapB inp = true ↔ loadB net inp.entries ≤ net.t * inp.capB) := by
  simp [meetsCapA, meetsCapB, given, mode]

theorem meetsCaps_aOnly (given : inp.net = some net) (mode : inp.mode = .aOnly) :
    (meetsCapA inp = true ↔ totalCharge inp.entries ≤ inp.capA) ∧ (meetsCapB inp = true ↔ True) := by
  simp [meetsCapA, meetsCapB, given, mode]

theorem meetsCaps_bOnly (given : inp.net = some net) (mode : inp.mode = .bOnly) :
    (meetsCapA inp = true ↔ True) ∧ (meetsCapB inp = true ↔ totalCharge inp.entries ≤ inp.capB) := by
  simp [meetsCapA, meetsCapB, given, mode]

theorem meetsCaps_none (given : inp.net = some net) (mode : inp.mode = .none) :
    (meetsCapA inp = true ↔ totalCharge inp.entries = 0) ∧ (meetsCapB inp = true ↔ totalCharge inp.entries = 0) := by
  simp [meetsCapA, meetsCapB, given, mode]

/-- In a mode with a feed both capacities are met when the checks of that mode are. -/
theorem meetsCaps_of_room (given : inp.net = some net) (fed : inp.mode ≠ .none)
    (both : inp.mode = .both → loadA net inp.entries ≤ net.t * inp.capA ∧ loadB net inp.entries ≤ net.t * inp.capB)
    (aOnly : inp.mode = .aOnly → totalCharge inp.entries ≤ inp.capA)
    (bOnly : inp.mode = .bOnly → totalCharge inp.entries ≤ inp.capB) :
    meetsCapA inp = true ∧ meetsCapB inp = true := by
  cases mode : inp.mode with
  | both => simpa only [meetsCaps_both given mode] using both mode
  | aOnly => simpa only [meetsCaps_aOnly given mode, and_true] using aOnly mode
  | bOnly => simpa only [meetsCaps_bOnly given mode, true_and] using bOnly mode
  | none => exact absurd mode fed

theorem meetsLimits_iff (inp : InputSet) :
    meetsLimits inp = true ↔
      (∀ e ∈ inp.entries, e.isTruck = true → meetsFloor inp e.span = true) ∧
        meetsCapA inp = true ∧ meetsCapB inp = true := by
  have check (e : Charged) : (!e.isTruck || meetsFloor inp e.span) = true ↔
      (e.isTruck = true → meetsFloor inp e.span = true) := by
    cases e.isTruck <;> simp
  simp only [meetsLimits, Bool.and_eq_true, List.all_eq_true, check, and_assoc]

/-- With no entry there is no floor to breach and no load on a substation. -/
theorem meetsLimits_of_no_entry (given : inp.net = some net) (empty : inp.entries = []) : meetsLimits inp = true := by
  obtain ⟨noA, noB, noCharge⟩ :
      loadA net inp.entries = 0 ∧ loadB net inp.entries = 0 ∧ totalCharge inp.entries = 0 := by
    rw [empty]
    exact ⟨rfl, rfl, rfl⟩
  rw [meetsLimits_iff]
  refine ⟨by simp [empty], ?_⟩
  cases mode : inp.mode with
  | both => simp [meetsCaps_both given mode, noA, noB]
  | aOnly => simp [meetsCaps_aOnly given mode, noCharge]
  | bOnly => simp [meetsCaps_bOnly given mode, noCharge]
  | none => simp [meetsCaps_none given mode, noCharge]

end Limits

/-- The check of a capacity on the exact sum is the check of the rounded share (R28). -/
theorem ceilDiv_le_iff_le_mul {u t cap : Nat} (ht : 0 < t) : ceilDiv u t ≤ cap ↔ u ≤ t * cap := by
  rw [ceilDiv_le_iff ht, Nat.mul_comm]

/-- Settles O50: rounding a sum up commutes with a bound that is a multiple of the divisor (`ceilDiv_le_iff`). -/
theorem floorTestIsExact : Obligations.FloorTestIsExact := by
  refine ⟨fun inp net m given => ?_, ?_⟩
  · intro sum drop
    have value : dropSum inp.mode net inp.entries m = sum := rfl
    refine ⟨fun fed => ?_, fun mode => ⟨by simp only [dropAt, given, if_pos mode],
      by simp only [estimateAt, given, if_pos mode], meetsFloor_none mode m⟩⟩
    have dropIs : dropAt inp m = drop := dropAt_fed given fed m
    have floor := meetsFloor_fed given fed m
    rw [value, voltageBound] at floor
    refine ⟨dropIs, (estimateAt_fed given fed m).trans (by rw [dropIs]), floor, floor.trans ?_, fun positive => ?_⟩
    · show _ ↔ _ ≤ (inp.vFeed : Int) - ((sum + 1999) / 2000 : Nat)
      omega
    · rw [dropAt_fed given fed m, value]
      exact (ceilDiv_pos_iff (by omega)).2 positive
  · intro inp rs given nonempty pos placed t p total uA uB capacities
    have valueA : loadA (netOf rs) inp.entries = uA := loadA_netOf placed
    have valueB : loadB (netOf rs) inp.entries = uB := loadB_netOf placed
    refine ⟨fun mode => ?_, fun mode => meetsCaps_aOnly given mode, fun mode => meetsCaps_bOnly given mode,
      fun mode => meetsCaps_none given mode, meetsLimits_iff inp, meetsLimits_of_no_entry given⟩
    have exactA : ceilDiv uA t ≤ inp.capA ↔ uA ≤ t * inp.capA := ceilDiv_le_iff_le_mul (netOf_t_pos pos nonempty)
    have exactB : ceilDiv uB t ≤ inp.capB ↔ uB ≤ t * inp.capB := ceilDiv_le_iff_le_mul (netOf_t_pos pos nonempty)
    obtain ⟨capA, capB⟩ := meetsCaps_both given mode
    rw [valueA] at capA
    rw [valueB] at capB
    refine ⟨⟨capA, capB⟩, ?_⟩
    rw [shares_both given mode, valueA, valueB]
    exact ⟨capA.trans exactA.symm, capB.trans exactB.symm⟩

/-! ### The terms of an increment (R29 to R33) -/

theorem le_minOf_iff {w x : Nat} {xs : List Nat} : w ≤ minOf x xs ↔ w ≤ x ∧ ∀ y ∈ xs, w ≤ y := by
  unfold minOf
  induction xs generalizing x with
  | nil => simp
  | cons y ys ih => rw [List.foldl_cons, ih, Nat.le_min, List.forall_mem_cons, and_assoc]

/-- A current above 0 and within a term, times the growth per ampere, fits in the room (R30). -/
theorem growth_mul_le_of_le_term {room : Int} {growth w : Nat} (positive : 0 < w) (within : w ≤ term room growth) :
    ((growth * w : Nat) : Int) ≤ room := by
  have someRoom : 0 ≤ room := by
    rcases Int.le_total room 0 with noRoom | someRoom
    · rw [term_of_no_room growth noRoom] at within
      omega
    · exact someRoom
  have grown : growth * w ≤ growth * term room growth := Nat.mul_le_mul_left growth within
  have fits := growth_mul_term_le (growth := growth) someRoom
  omega

/-- A term is the largest current whose growth fits in the room (R30). -/
theorem le_term_of_growth_mul_le {room : Int} {growth w : Nat} (grows : 0 < growth)
    (fits : ((growth * w : Nat) : Int) ≤ room) : w ≤ term room growth := by
  unfold term
  split
  · next noRoom =>
    have noGrowth : growth * w = 0 := by omega
    exact (Nat.mul_eq_zero.1 noGrowth).elim (fun h => by omega) Nat.le_of_eq
  · rw [Nat.le_div_iff_mul_le grows, Nat.mul_comm]
    omega

theorem mem_constraintSpans {inp : InputSet} {c : Candidate} {m : Nat} :
    m ∈ constraintSpans inp c ↔
      (∃ e ∈ inp.entries, e.isTruck = true ∧ e.span = m) ∨ (c.listed = false ∧ m = c.span) := by
  cases listed : c.listed <;> simp [constraintSpans, listed, and_assoc]

/-- Every check that bounds an increment, with `added` amperes more at the candidate's span (R29 to R32). -/
structure KeepsChecks (inp : InputSet) (net : Net) (c : Candidate) (added : Nat) : Prop where
  floors : ∀ m ∈ constraintSpans inp c,
    ((dropSum inp.mode net inp.entries m + transfer inp.mode net m c.span * added : Nat) : Int) ≤ voltageBound inp
  both : inp.mode = .both →
    loadA net inp.entries + net.qAt c.span * added ≤ net.t * inp.capA ∧
      loadB net inp.entries + net.pAt c.span * added ≤ net.t * inp.capB
  aOnly : inp.mode = .aOnly → totalCharge inp.entries + added ≤ inp.capA
  bOnly : inp.mode = .bOnly → totalCharge inp.entries + added ≤ inp.capB

/-- Every voltage and capacity term of an increment. -/
def terms (inp : InputSet) (net : Net) (c : Candidate) : List Nat := voltageTerms inp net c ++ capacityTerms inp net c

section Terms

variable {inp : InputSet} {net : Net} {c : Candidate} {w : Nat}

theorem forall_voltageTerms {P : Nat → Prop} :
    (∀ y ∈ voltageTerms inp net c, P y) ↔ ∀ m ∈ constraintSpans inp c,
      P (term (voltageBound inp - dropSum inp.mode net inp.entries m) (transfer inp.mode net m c.span)) :=
  List.forall_mem_map

/-- A current above 0 and within every term keeps every check. -/
theorem keepsChecks_of_le_terms (positive : 0 < w) (within : ∀ y ∈ terms inp net c, w ≤ y) :
    KeepsChecks inp net c w := by
  obtain ⟨voltage, capacity⟩ := List.forall_mem_append.1 within
  constructor
  · intro m hm
    have fits := growth_mul_le_of_le_term positive (forall_voltageTerms.1 voltage m hm)
    omega
  · intro mode
    simp only [capacityTerms, mode, List.forall_mem_cons] at capacity
    have fitsA := growth_mul_le_of_le_term positive capacity.1
    have fitsB := growth_mul_le_of_le_term positive capacity.2.1
    omega
  all_goals
    intro mode
    simp only [capacityTerms, mode, List.forall_mem_cons] at capacity
    omega

/-- Where each ampere counts at every constraint point and at both feeds, a current that keeps every check is within every
term. -/
theorem KeepsChecks.le_terms (keeps : KeepsChecks inp net c w) (fed : inp.mode ≠ .none)
    (drops : ∀ m ∈ constraintSpans inp c, 0 < transfer inp.mode net m c.span) (loadsA : 0 < net.qAt c.span)
    (loadsB : 0 < net.pAt c.span) : ∀ y ∈ terms inp net c, w ≤ y := by
  obtain ⟨floors, both, aOnly, bOnly⟩ := keeps
  refine List.forall_mem_append.2 ⟨forall_voltageTerms.2 fun m hm => ?_, ?_⟩
  · have floor := floors m hm
    exact le_term_of_growth_mul_le (drops m hm) (by omega)
  · cases mode : inp.mode with
    | both =>
      obtain ⟨roomA, roomB⟩ := both mode
      have withinA := le_term_of_growth_mul_le (w := w) loadsA
        (room := (net.t * inp.capA : Nat) - (loadA net inp.entries : Nat)) (by omega)
      have withinB := le_term_of_growth_mul_le (w := w) loadsB
        (room := (net.t * inp.capB : Nat) - (loadB net inp.entries : Nat)) (by omega)
      simp only [capacityTerms, mode, List.forall_mem_cons]
      exact ⟨withinA, withinB, nofun⟩
    | aOnly =>
      have room := aOnly mode
      simp only [capacityTerms, mode, List.forall_mem_singleton]
      omega
    | bOnly =>
      have room := bOnly mode
      simp only [capacityTerms, mode, List.forall_mem_singleton]
      omega
    | none => exact absurd mode fed

/-- What keeps every check keeps it with less. -/
theorem KeepsChecks.mono (keeps : KeepsChecks inp net c w) {v : Nat} (less : v ≤ w) : KeepsChecks inp net c v := by
  have grow (growth : Nat) : growth * v ≤ growth * w := Nat.mul_le_mul_left growth less
  obtain ⟨floors, both, aOnly, bOnly⟩ := keeps
  constructor
  · intro m hm
    have floor := floors m hm
    have := grow (transfer inp.mode net m c.span)
    omega
  · intro mode
    have rooms := both mode
    have := grow (net.qAt c.span)
    have := grow (net.pAt c.span)
    omega
  · intro mode
    have room := aOnly mode
    omega
  · intro mode
    have room := bOnly mode
    omega

/-! ### A charge added at a span (R34) -/

/-- The second list carries `added` amperes more at span `x`, in whatever sum over the charges. -/
def AddsAt (x added : Nat) (es es' : List Charged) : Prop :=
  ∀ weight, chargeSum weight es' = chargeSum weight es + weight x * added

theorem addsAt_nothing (x : Nat) (es : List Charged) : AddsAt x 0 es es := fun _ => rfl

theorem addsAt_new_entry (x added : Nat) (truck : Bool) (es : List Charged) :
    AddsAt x added es (es ++ [⟨truck, x, added⟩]) := fun weight => by
  rw [chargeSum_append, chargeSum_cons, chargeSum_nil, Nat.add_zero]

theorem addsAt_entry {x : Nat} (added : Nat) (ahead : List Charged) {e : Charged} (behind : List Charged)
    (place : e.span = x) : AddsAt x added (ahead ++ e :: behind)
      (ahead ++ { e with charge := e.charge + added } :: behind) :=
  fun weight => by
    simp only [chargeSum_append, chargeSum_cons, Nat.mul_add, place]
    omega

/-- A list with the current added meets every limit, when its trucks stand at constraint points of the increment. -/
theorem KeepsChecks.meetsLimits (keeps : KeepsChecks inp net c w) (given : inp.net = some net) (fed : inp.mode ≠ .none)
    {es : List Charged} (adds : AddsAt c.span w inp.entries es)
    (points : ∀ e ∈ es, e.isTruck = true → e.span ∈ constraintSpans inp c) :
    meetsLimits { inp with entries := es } = true := by
  obtain ⟨floors, both, aOnly, bOnly⟩ := keeps
  rw [meetsLimits_iff]
  refine ⟨fun e he truck => ?_, ?_⟩
  · have floor := floors e.span (points e he truck)
    rw [dropSum_eq_chargeSum, ← adds] at floor
    exact (meetsFloor_fed (inp := { inp with entries := es }) given fed e.span).2 floor
  · rw [loadA_eq_chargeSum, loadB_eq_chargeSum, ← adds, ← adds, ← loadA_eq_chargeSum, ← loadB_eq_chargeSum] at both
    have total : totalCharge es = totalCharge inp.entries + w := by
      rw [totalCharge_eq_chargeSum, adds, Nat.one_mul, ← totalCharge_eq_chargeSum]
    rw [← total] at aOnly bOnly
    exact meetsCaps_of_room (inp := { inp with entries := es }) given fed both aOnly bOnly

end Terms

/-! ### The increment (R33, R34) -/

section Increment

variable {inp : InputSet} {net : Net} {c : Candidate}

theorem headroom_mode_none (mode : inp.mode = .none) (c : Candidate) : headroom inp c = 0 := by
  unfold headroom
  split
  · rfl
  · rw [if_pos mode]

/-- The request and the smallest term, rounded down to the grant quantum (R33 steps 1 and 2). -/
def quantized (inp : InputSet) (net : Net) (c : Candidate) : Nat := minOf c.request (terms inp net c) / 50 * 50

theorem headroom_fed (given : inp.net = some net) (fed : inp.mode ≠ .none) :
    headroom inp c = if quantized inp net c < c.iMin then 0 else quantized inp net c := by
  simp only [headroom, given, if_neg fed]
  rfl

theorem quantized_le (inp : InputSet) (net : Net) (c : Candidate) :
    quantized inp net c ≤ c.request ∧ ∀ y ∈ terms inp net c, quantized inp net c ≤ y :=
  le_minOf_iff.1 (Nat.div_mul_le_self _ 50)

/-- No larger multiple of the grant quantum is within the request and every term. -/
theorem le_quantized_of_le_terms {w : Nat} (quanta : w % 50 = 0) (request : w ≤ c.request)
    (within : ∀ y ∈ terms inp net c, w ≤ y) : w ≤ quantized inp net c := by
  have below : w ≤ minOf c.request (terms inp net c) := le_minOf_iff.2 ⟨request, within⟩
  unfold quantized
  omega

/-- An increment above 0 is computed with a feed and a valid configuration, and keeps every check. -/
theorem keepsChecks_headroom (positive : 0 < headroom inp c) :
    ∃ net, inp.net = some net ∧ inp.mode ≠ .none ∧ KeepsChecks inp net c (headroom inp c) := by
  have fed : inp.mode ≠ .none := fun mode => Nat.ne_of_gt positive (headroom_mode_none mode c)
  cases given : inp.net with
  | none => simp [headroom, given] at positive
  | some net =>
    refine ⟨net, rfl, fed, keepsChecks_of_le_terms positive fun y hy => headroom_le given (.inr ?_)⟩
    exact List.mem_append.1 hy

theorem truck_mem_constraintSpans {e : Charged} (he : e ∈ inp.entries) (truck : e.isTruck = true) :
    e.span ∈ constraintSpans inp c :=
  mem_constraintSpans.2 (.inl ⟨e, he, truck, rfl⟩)

theorem headroom_of_breach (breach : meetsLimits inp = false) : headroom inp c = 0 := by
  refine Nat.eq_zero_of_not_pos fun positive => ?_
  obtain ⟨net, given, fed, keeps⟩ := keepsChecks_headroom positive
  have met := (keeps.mono (Nat.zero_le _)).meetsLimits given fed (addsAt_nothing c.span inp.entries)
    fun _ => truck_mem_constraintSpans
  exact absurd met (by rw [breach]; decide)

theorem headroom_of_own_breach (unlisted : c.listed = false) (breach : meetsFloor inp c.span = false) :
    headroom inp c = 0 := by
  refine Nat.eq_zero_of_not_pos fun positive => ?_
  obtain ⟨net, given, fed, keeps⟩ := keepsChecks_headroom positive
  have floor := keeps.floors c.span (mem_constraintSpans.2 (.inr ⟨unlisted, rfl⟩))
  have met : meetsFloor inp c.span = true := (meetsFloor_fed given fed c.span).2 (by omega)
  exact absurd met (by rw [breach]; decide)

/-- The increment as the charge of a new entry at the candidate's span, of either kind. -/
theorem meetsLimits_new_entry (unlisted : c.listed = false) (positive : 0 < headroom inp c) (truck : Bool) :
    meetsLimits { inp with entries := inp.entries ++ [⟨truck, c.span, headroom inp c⟩] } = true := by
  obtain ⟨net, given, fed, keeps⟩ := keepsChecks_headroom positive
  refine keeps.meetsLimits given fed (addsAt_new_entry c.span _ truck inp.entries) fun e he isTruck => ?_
  rcases List.mem_append.1 he with he | he
  · exact truck_mem_constraintSpans he isTruck
  · obtain rfl := List.mem_singleton.1 he
    exact mem_constraintSpans.2 (.inr ⟨unlisted, rfl⟩)

/-- The increment on top of the charge of an entry at the candidate's span. -/
theorem meetsLimits_own_entry {ahead behind : List Charged} {e : Charged} (entries : inp.entries = ahead ++ e :: behind)
    (place : e.span = c.span) (met : meetsLimits inp = true) :
    meetsLimits { inp with entries := ahead ++ { e with charge := e.charge + headroom inp c } :: behind } = true := by
  rcases Nat.eq_zero_or_pos (headroom inp c) with nothing | positive
  · rw [nothing, Nat.add_zero, ← entries]
    exact met
  · obtain ⟨net, given, fed, keeps⟩ := keepsChecks_headroom positive
    have adds := addsAt_entry (headroom inp c) ahead behind place
    rw [← entries] at adds
    refine keeps.meetsLimits given fed adds fun f hf isTruck => ?_
    rcases List.mem_append.1 hf with hf | hf
    · exact truck_mem_constraintSpans (by simp [entries, hf]) isTruck
    · rcases List.mem_cons.1 hf with rfl | hf
      · exact truck_mem_constraintSpans (e := e) (by simp [entries]) isTruck
      · exact truck_mem_constraintSpans (by simp [entries, hf]) isTruck

end Increment

/-- Over a valid configuration the quantized current is the largest multiple of the quantum that keeps every check. -/
theorem KeepsChecks.le_quantized {rs : List Nat} {inp : InputSet} {c : Candidate} {w : Nat} (pos : ∀ r ∈ rs, 1 ≤ r)
    (placed : ∀ e ∈ inp.entries, e.span < rs.length) (inside : c.span < rs.length) (fed : inp.mode ≠ .none)
    (keeps : KeepsChecks inp (netOf rs) c w) (quanta : w % 50 = 0) (request : w ≤ c.request) :
    w ≤ quantized inp (netOf rs) c := by
  have insidePoint : ∀ m ∈ constraintSpans inp c, m < rs.length := fun m hm => by
    rcases mem_constraintSpans.1 hm with ⟨e, he, -, rfl⟩ | ⟨-, rfl⟩
    · exact placed e he
    · exact inside
  have drops : ∀ m ∈ constraintSpans inp c, 0 < transfer inp.mode (netOf rs) m c.span := fun m hm =>
    transfer_pos pos fed (insidePoint m hm) inside
  exact le_quantized_of_le_terms quanta request
    (keeps.le_terms fed drops (netOf_qAt_pos pos inside) (netOf_pAt_pos pos inside))

/-- Settles O47: an increment is within every term, and a term is the largest current that keeps its check. -/
theorem incrementKeepsEveryLimit : Obligations.IncrementKeepsEveryLimit := by
  intro inp c h
  refine ⟨headroom_of_breach, meetsLimits_new_entry, fun _ ahead e behind entries _ place met =>
    meetsLimits_own_entry entries place met, headroom_of_own_breach, headroom_shape inp c,
    fun mode => headroom_mode_none mode c, ?_⟩
  intro rs given pos placed inside fed t p z total uA uB keeps
  have keeps_iff (w : Nat) : keeps w ↔ KeepsChecks inp (netOf rs) c w := by
    have valueA : loadA (netOf rs) inp.entries = uA := loadA_netOf placed
    have valueB : loadB (netOf rs) inp.entries = uB := loadB_netOf placed
    have growthA : (netOf rs).qAt c.span = t - p c.span := netOf_qAt_value inside
    have growthB : (netOf rs).pAt c.span = p c.span := netOf_pAt inside
    constructor
    · rintro ⟨floors, both, aOnly, bOnly⟩
      refine ⟨fun m hm => floors m (mem_constraintSpans.1 hm), ?_, aOnly, bOnly⟩
      rw [valueA, valueB, growthA, growthB]
      exact both
    · rintro ⟨floors, both, aOnly, bOnly⟩
      rw [valueA, valueB, growthA, growthB] at both
      exact ⟨fun m hm => floors m (mem_constraintSpans.2 hm), both, aOnly, bOnly⟩
  obtain ⟨request, within⟩ := quantized_le inp (netOf rs) c
  refine ⟨quantized inp (netOf rs) c, ⟨Nat.mul_mod_left _ _, request, ?_⟩, fun w quanta small kept =>
    ((keeps_iff w).1 kept).le_quantized pos placed inside fed quanta small, headroom_fed given fed⟩
  exact (Nat.eq_zero_or_pos _).imp_right fun positive => (keeps_iff _).2 (keepsChecks_of_le_terms positive within)

end Sys2Proof.Machine
end

