-- ==== Sys2Proof/Proofs/Feeds.lean ====
section
/-! Chapter 3, the feeds and the shed handshake: the figures derived from the feed records, the fields of a DEMAND, what
a FEED_REPORT and a SHED write, and the three obligations settled from them. -/

namespace Sys2Proof.Machine

/-! ### The feed mode, V_feed and the capacity in use (R43 to R45) -/

theorem FeedRec.inService_iff (r : FeedRec) : r.inService = true ↔ r.state = .inService ∨ r.state = .late := by
  simp [FeedRec.inService]

theorem FeedRec.inService_eq_false_iff (r : FeedRec) :
    r.inService = false ↔ ¬(r.state = .inService ∨ r.state = .late) := by
  rw [← r.inService_iff, Bool.not_eq_true]

section Figures
variable {s : State}

theorem State.figures_both (a : s.feedA.feed.inService = true) (b : s.feedB.feed.inService = true) :
    s.feedMode = .both ∧ s.vFeed = min s.feedA.feed.volts s.feedB.feed.volts := by
  have mode : s.feedMode = .both := by simp only [State.feedMode, a, b]
  exact ⟨mode, by simp only [State.vFeed, mode]⟩

theorem State.figures_aOnly (a : s.feedA.feed.inService = true) (b : s.feedB.feed.inService = false) :
    s.feedMode = .aOnly ∧ s.vFeed = s.feedA.feed.volts := by
  have mode : s.feedMode = .aOnly := by simp only [State.feedMode, a, b]
  exact ⟨mode, by simp only [State.vFeed, mode]⟩

theorem State.figures_bOnly (a : s.feedA.feed.inService = false) (b : s.feedB.feed.inService = true) :
    s.feedMode = .bOnly ∧ s.vFeed = s.feedB.feed.volts := by
  have mode : s.feedMode = .bOnly := by simp only [State.feedMode, a, b]
  exact ⟨mode, by simp only [State.vFeed, mode]⟩

theorem State.figures_none (a : s.feedA.feed.inService = false) (b : s.feedB.feed.inService = false) :
    s.feedMode = .none ∧ s.vFeed = 0 := by
  have mode : s.feedMode = .none := by simp only [State.feedMode, a, b]
  exact ⟨mode, by simp only [State.vFeed, mode]⟩

theorem State.capacityInUse_of_out {f : Feed} (out : (s.side f).feed.inService = false) : s.capacityInUse f = 0 := by
  simp [State.capacityInUse, out]

/-- A bound that does not apply is written as the reported capacity itself. -/
theorem State.capacityInUse_of_inService {f : Feed} (serving : (s.side f).feed.inService = true) :
    s.capacityInUse f = min (s.side f).feed.capacity
      (min (if (s.side f).feed.state = .late then s.params.fallbackCapacity else (s.side f).feed.capacity)
        (if (s.side f).shed.state = .none then (s.side f).feed.capacity else (s.side f).shed.capacity)) := by
  simp only [State.capacityInUse, serving, if_true, ShedRec.inForce]
  by_cases late : (s.side f).feed.state = .late <;> by_cases shed : (s.side f).shed.state = .none <;>
    simp only [late, shed, if_true, if_false] <;> omega

end Figures

/-- Settles O15: the four modes are the cases of `inService` on the two records. -/
theorem feedFiguresDerived : Obligations.FeedFiguresDerived := by
  intro s inA inB
  have serves (r : FeedRec) := r.inService_iff.2
  have isOut (r : FeedRec) := r.inService_eq_false_iff.2
  refine ⟨fun a b => State.figures_both (serves _ a) (serves _ b), fun a b => State.figures_aOnly (serves _ a) (isOut _ b),
    fun a b => State.figures_bOnly (isOut _ a) (serves _ b), fun a b => State.figures_none (isOut _ a) (isOut _ b),
    fun f => ⟨fun out => State.capacityInUse_of_out (isOut _ ?_),
      fun serving => State.capacityInUse_of_inService (serves _ serving)⟩⟩
  rcases out with out | out <;> simp [out]

/-! ### The DEMAND answer (R48) -/

/-- A state that keeps the feed's share and shed, the section state and the trucks of `s` sends a DEMAND that differs from
that of `s` in the feed mode and the fault flags alone. -/
theorem State.demand_of_kept {s u : State} {f : Feed} (share : (u.side f).share = (s.side f).share)
    (shed : (u.side f).shed = (s.side f).shed) (sect : u.sect = s.sect) (trucks : u.trucks = s.trucks) :
    u.demand f = .demand (s.side f).share u.feedMode s.sect (s.side f).shed.state
      (if (s.side f).shed.state = .none then none else some (s.side f).shed.capacity) u.faults
      ((List.finRange 12).countP fun k => (s.truck k).state == .drawing) := by
  simp only [State.demand, State.drawingCount, State.truck, ShedRec.inForce, allSlots_eq_finRange, share, shed, sect,
    trucks]

/-! ### SHED and SHED_RELEASE (R52) -/

/-- The feed's shed record is replaced. -/
def State.setShed (s : State) (f : Feed) (r : ShedRec) : State := s.setSide f { s.side f with shed := r }

theorem shedRule_eq (f : Feed) (capacity : U16) (s : State) :
    shedRule f capacity s =
      let u := s.setShed f ⟨.pending, min capacity.toNat 6000, some (after s.now s.params.shedTimeout)⟩
      (u, u.demand f) := rfl

theorem shedReleaseRule_eq (f : Feed) (s : State) :
    shedReleaseRule f s = let u := s.setShed f ⟨.none, 0, none⟩; (u, u.demand f) := rfl

/-- No shed record takes part in the feed mode. -/
theorem State.feedMode_setShed (s : State) (f : Feed) (r : ShedRec) : (s.setShed f r).feedMode = s.feedMode := by
  cases f <;> rfl

theorem State.demand_setShed (s : State) (f : Feed) (r : ShedRec) :
    (s.setShed f r).demand f = .demand (s.side f).share s.feedMode s.sect r.state r.inForce s.faults
      ((List.finRange 12).countP fun k => (s.truck k).state == .drawing) := by
  rw [State.demand, State.feedMode_setShed]
  simp [State.setShed, State.drawingCount, allSlots_eq_finRange]

/-- Settles O13: both requests replace the shed record, and the DEMAND is that of the state with the new one. -/
theorem shedAndReleaseTaken : Obligations.ShedAndReleaseTaken := by
  intro s f capacity hears x c drawing
  have taken (r : ShedRec) {rule : State → State × Answer} (eq : rule s = (s.setShed f r, (s.setShed f r).demand f)) :
      s.request (feedPort f) rule = (s.setShed f r).send (feedPort f)
        (.demand x.share s.feedMode s.sect r.state r.inForce s.faults drawing) := by
    rw [State.request_of_hears rule hears, eq, State.demand_setShed]
  exact ⟨congrArg Host.Outcome.next (taken _ (shedRule_eq f capacity s)),
    congrArg Host.Outcome.next (taken _ (shedReleaseRule_eq f s))⟩

/-! ### FEED_REPORT (R39, R40, R49) -/

theorem feedOf_eq_some_a (b : Byte) : feedOf b = some .a ↔ b = 1 := by
  unfold feedOf
  split <;> simp_all

theorem feedOf_eq_some_b (b : Byte) : feedOf b = some .b ↔ b = 2 := by
  unfold feedOf
  split <;> simp_all

theorem breakerOf_of_ne {b : Byte} (h : b ≠ 1) : breakerOf b = .opened := if_neg h

/-- The count goes up by 1 to at most 3 on a report above the margin, and back to 0 on any other (R49). -/
theorem overdrawAfter_eq (x : FeedSide) (margin output : Nat) :
    overdrawAfter x margin output = if output > x.share + margin then min 3 (x.feed.overdraw + 1) else 0 := by
  unfold overdrawAfter
  split
  · split <;> omega
  · rfl

section Report
variable {s : State} {f : Feed}

theorem State.overdrawCheck_of_out {b : Breaker} (output : Nat) (out : (s.side f).feed.inService = false) :
    s.overdrawCheck f b output = s := by
  simp [State.overdrawCheck, out]

theorem State.overdrawCheck_opened (output : Nat) : s.overdrawCheck f .opened output = s := by
  simp [State.overdrawCheck]

/-- On a feed in service the check writes the overdraw count, and the OVERDRAW flag on the third report above (R49). -/
theorem State.overdrawCheck_of_inService (output : Nat) (serving : (s.side f).feed.inService = true) :
    s.overdrawCheck f .closed output =
      let x := s.side f
      let count := overdrawAfter x s.params.overdrawMargin output
      ({ s with faults :=
        if output > x.share + s.params.overdrawMargin ∧ count = 3 then s.faults.setOverdraw f else s.faults } : State).setSide f
        { x with feed := { x.feed with overdraw := count } } := by
  simp only [State.overdrawCheck, serving, and_self, if_true]
  split <;> cases f <;> rfl

/-- A report with its breaker OPEN puts the feed OUT; the event flag is set when it was in service (R40). -/
theorem State.takeReport_opened (volts capacity output : Nat) :
    s.takeReport f volts capacity .opened output =
      ({ s with events := if (s.side f).feed.inService = true then s.events.setFeedOut f else s.events } : State).setSide f
        { s.side f with feed := { (s.side f).feed with
          volts := volts, capacity := capacity, breaker := .opened, output := output, lastReport := some s.now
          state := .out, lateDeadline := none, outDeadline := none, overdraw := 0 } } := by
  simp only [State.takeReport]
  split <;> cases f <;> rfl

/-- With its breaker CLOSED, a report puts the feed IN_SERVICE and keeps the overdraw count (R40). -/
theorem State.takeReport_closed (volts capacity output : Nat) :
    s.takeReport f volts capacity .closed output =
      s.setSide f { s.side f with feed := { (s.side f).feed with
        volts := volts, capacity := capacity, breaker := .closed, output := output, lastReport := some s.now
        state := .inService, lateDeadline := some (after s.now s.params.feedLate)
        outDeadline := some (after s.now s.params.feedOut) } } := rfl

theorem exec_feedReport_of_rule {ident breaker : Byte} {volts capacity output : U16} {u : State} {a : Answer}
    (hears : s.hears (feedPort f) = true)
    (answer : feedReportRule f ident volts capacity breaker output s = (u, a)) :
    exec (.feedReport f ident volts capacity breaker output) s = .next (u.send (feedPort f) a) := by
  show Host.Outcome.next (s.request _ _) = _
  rw [State.request_of_hears _ hears, answer]

theorem exec_feedReport_wrong_port {ident : Byte} (hears : s.hears (feedPort f) = true) (wrong : feedOf ident ≠ some f)
    (volts capacity : U16) (breaker : Byte) (output : U16) :
    exec (.feedReport f ident volts capacity breaker output) s =
      .next (s.send (feedPort f) (.refused .feedReport .wrongPort false)) :=
  exec_feedReport_of_rule hears (if_pos wrong)

/-- A report that is taken, its effect given as one write of the feed record over `v`: the DEMAND shows the feed mode and
the fault flags that the write leaves, and the rest as in `s` (R39, R48). -/
theorem exec_feedReport_taken {ident breaker : Byte} {volts capacity output : U16} {v : State} {y : FeedRec}
    (hears : s.hears (feedPort f) = true) (right : feedOf ident = some f) (sect : v.sect = s.sect)
    (trucks : v.trucks = s.trucks)
    (effect : (s.overdrawCheck f (breakerOf breaker) (min output.toNat 6000)).takeReport f (min volts.toNat 3000)
      (min capacity.toNat 6000) (breakerOf breaker) (min output.toNat 6000) = v.setSide f { s.side f with feed := y }) :
    let u := v.setSide f { s.side f with feed := y }
    exec (.feedReport f ident volts capacity breaker output) s =
      .next (u.send (feedPort f) (.demand (s.side f).share u.feedMode s.sect (s.side f).shed.state
        (if (s.side f).shed.state = .none then none else some (s.side f).shed.capacity) u.faults
        ((List.finRange 12).countP fun k => (s.truck k).state == .drawing))) := by
  intro u
  have demand : u.demand f = _ :=
    State.demand_of_kept (s := s) (by simp [u]) (by simp [u]) (by simp [u, sect]) (by simp [u, trucks])
  have rule : feedReportRule f ident volts capacity breaker output s = (u, u.demand f) :=
    (if_neg (not_not_intro right)).trans (congrArg (fun w : State => (w, w.demand f)) effect)
  rw [exec_feedReport_of_rule hears rule, demand]

end Report

/-- Settles O12: the identifier decides whether the report is taken, the breaker whether the overdraw check runs and which
record `takeReport` leaves. -/
theorem feedReportInEachCase : Obligations.FeedReportInEachCase := by
  intro s f ident breaker volts capacity output hears right x r out wasIn above count written drawing inForce taken
  have named : feedOf ident = some f ↔ right := by
    cases f
    · exact feedOf_eq_some_a ident
    · exact feedOf_eq_some_b ident
  refine ⟨fun wrong => ?_, fun isRight closed => ?_, fun isRight opened => ?_⟩
  · exact exec_feedReport_wrong_port hears (mt named.1 wrong) volts capacity breaker output
  · refine exec_feedReport_taken hears (named.2 isRight) rfl rfl ?_
    subst closed
    show (s.overdrawCheck f .closed out).takeReport f _ _ .closed out = _
    by_cases serving : wasIn
    · have counted : overdrawAfter (s.side f) s.params.overdrawMargin out = count :=
        (overdrawAfter_eq x _ out).trans (if_pos serving).symm
      rw [State.overdrawCheck_of_inService out (r.inService_iff.2 serving), State.takeReport_closed]
      simp only [counted, serving, true_and, State.side_setSide_same, State.setSide_setSide, State.setSide_now,
        State.setSide_params]
      rfl
    · have kept : count = r.overdraw := if_neg serving
      rw [State.overdrawCheck_of_out out (r.inService_eq_false_iff.2 serving), State.takeReport_closed, kept]
      simp only [serving, false_and, if_false]
      rfl
  · refine exec_feedReport_taken hears (named.2 isRight) rfl rfl ?_
    rw [breakerOf_of_ne opened, State.overdrawCheck_opened, State.takeReport_opened]
    simp only [FeedRec.inService_iff]
    rfl

end Sys2Proof.Machine
end

/-! Chapter 4's EVICT: the three ways in which it frees a slot, the conversion that it asks of the line tracker, and the
obligation settled from them. -/

namespace Sys2Proof.Machine

theorem TruckState.inLine_iff (x : TruckState) :
    x.inLine = true ↔ x = .raisePending ∨ x = .drawing ∨ x = .lowering ∨ x = .silent := by
  cases x <;> simp [TruckState.inLine]

/-- A slot's number, laid out as a byte, is the field that names the slot. -/
theorem byte_of_named {slot : Byte} {k : Slot} (named : slot.toNat = k.val + 1) : byte (k.val + 1) = slot := by
  rw [← named, byte, BitVec.ofNat_toNat, BitVec.setWidth_eq]

/-! ### The line order under a freed slot (R65, R83, R84) -/

/-- Entries removed leave every field alone but the line order, its phantom count and the span states (R84, R143). -/
theorem State.removeEntries_frame (s : State) (q : Entry → Bool) :
    s.removeEntries q = { s with
      line := s.line.filter fun e => !q e, phantomCount := phantomsIn (s.line.filter fun e => !q e)
      spanStates := (s.removeEntries q).spanStates } :=
  (State.tellEmptied_fold (s.line.filter q) (s.putLine (s.line.filter fun e => !q e))).1

@[simp] theorem State.removeEntries_faults (s : State) (q : Entry → Bool) : (s.removeEntries q).faults = s.faults := by
  rw [State.removeEntries_frame]

/-- Freeing a slot clears its record and the origin tags that name it (R58, R65). -/
theorem State.freeSlot_eq (s : State) (k : Slot) :
    s.freeSlot k = { s.setTruck k {} with
      line := s.line.map (Entry.forget k), phantomCount := phantomsIn (s.line.map (Entry.forget k)) } := rfl

/-- The phantom count is taken anew when a slot is freed, so it does not matter whether it was taken before. -/
theorem State.freeSlot_putLine (s : State) (l : List Entry) (k : Slot) :
    (s.putLine l).freeSlot k = ({ s with line := l } : State).freeSlot k := rfl

section Convert
variable {s : State} {k : Slot} {current : Nat} {origin : Option (Slot × U16)}

/-- With room for a phantom, the slot's one entry gets the lowest free phantom number in its place (R80, R83). -/
theorem State.convert_in_place {ahead behind : List Entry} {e : Entry} {n : PhantomNo} (room : phantomsIn s.line < 4)
    (place : s.line = ahead ++ e :: behind) (own : e.isTruckOf k = true)
    (others : ∀ x ∈ ahead ++ behind, x.isTruckOf k = false) (unused : ∀ x ∈ s.line, x.isPhantomNo n = false)
    (below : ∀ m < n, ∃ x ∈ s.line, x.isPhantomNo m = true) :
    s.convert k current origin = s.putLine (ahead ++ { e with
      kind := .phantom n current (after s.now (s.params.phantomHold * 1000)) origin } :: behind) := by
  rw [State.convert_of_room room, lowestFreePhantom_eq unused below, place, map_toPhantom_split n _ _ _ own others]

/-- With four phantoms standing, the entry goes and PHANTOM_OVERFLOW is the one fault flag set (R83). -/
theorem State.convert_overflows (full : 4 ≤ phantomsIn s.line) :
    s.convert k current origin = { s.removeEntries (fun x => x.isTruckOf k) with
      faults := { s.faults with phantomOverflow := true } } := by
  rw [State.convert_of_full full, State.overflowed, State.removeEntries_faults]
  rfl

end Convert

/-! ### The cases of R64 -/

section Evict
variable {s : State} {k : Slot} {slot : Byte}

theorem evictRule_no_slot (flag : Bool) (outside : slotOf slot = none) :
    evictRule slot flag s = (s, .refused .evict .noSuchEntry flag) := by
  rw [evictRule, outside]

theorem evictRule_free (flag : Bool) (named : slotOf slot = some k) (state : (s.truck k).state = .free) :
    evictRule slot flag s = (s, .refused .evict .noSuchEntry flag) := by
  simp only [evictRule, named, state]

theorem evictRule_standby (flag : Bool) (named : slotOf slot = some k) (state : (s.truck k).state = .standby) :
    evictRule slot flag s = (s.freeSlot k, .ack .evict flag [byte (k.val + 1)]) := by
  simp only [evictRule, named, state]

theorem evictRule_queued (flag : Bool) (named : slotOf slot = some k) (state : (s.truck k).state = .queued) :
    evictRule slot flag s = ((s.unqueue k).freeSlot k, .ack .evict flag [byte (k.val + 1)]) := by
  simp only [evictRule, named, state]

theorem evictRule_inLine (flag : Bool) (named : slotOf slot = some k) (state : (s.truck k).state.inLine = true) :
    evictRule slot flag s =
      ((s.convert k (s.truck k).exposure none).freeSlot k, .ack .evict flag [byte (k.val + 1)]) := by
  rcases (TruckState.inLine_iff _).1 state with state | state | state | state <;>
    simp only [evictRule, named, state]

theorem exec_evict_of_rule {v : State} {a : Answer} (hears : s.hears .dispatch = true)
    (answer : evictRule slot s.isoBusy { s with isoSeq := .none } = (v, a)) :
    exec (.evict slot) s = .next (v.send .dispatch a) :=
  congrArg Host.Outcome.next (State.request_abandoning hears answer)

/-- An EVICT that is taken: the slot is freed in `v`, the state that the truck's own case leaves, and the ACK carries the
slot field (R64, R65). -/
theorem exec_evict_frees {v : State} (hears : s.hears .dispatch = true) (named : slot.toNat = k.val + 1)
    (answer : evictRule slot s.isoBusy { s with isoSeq := .none } =
      (v.freeSlot k, .ack .evict s.isoBusy [byte (k.val + 1)])) :
    exec (.evict slot) s = .next (({ v.setTruck k {} with
      line := v.line.map (Entry.forget k), phantomCount := phantomsIn (v.line.map (Entry.forget k)) } : State).send
        .dispatch (.ack .evict s.isoBusy [slot])) := by
  rw [exec_evict_of_rule hears answer, State.freeSlot_eq, byte_of_named named]

end Evict

/-- Settles O34: the truck's state picks the case of R64, and in a line-order state the room for a phantom picks the
conversion of R83; each leaves the state in which the slot is freed. -/
theorem evictFreesTheSlot : Obligations.EvictFreesTheSlot := by
  intro s k slot hears number t u frees
  have named : slotOf slot = some k := slotOf_eq_some.2 number
  have frees_of {v : State} (answer : evictRule slot s.isoBusy u =
      (v.freeSlot k, .ack .evict s.isoBusy [byte (k.val + 1)])) : frees v := exec_evict_frees hears number answer
  refine ⟨fun free => exec_evict_of_rule hears (evictRule_free _ named free),
    fun standby => frees_of (evictRule_standby _ named standby),
    fun queued => frees_of (evictRule_queued _ named queued),
    fun inLine ahead e behind place own others => ⟨fun room n unused below => frees_of ?_, fun full => frees_of ?_⟩,
    fun other outside => exec_evict_of_rule hears (evictRule_no_slot _ (slotOf_eq_none.2 outside))⟩
  · rw [evictRule_inLine (s := u) _ named inLine, State.convert_in_place (s := u) room place own others unused below,
      State.freeSlot_putLine]
    rfl
  · rw [evictRule_inLine (s := u) _ named inLine, State.convert_overflows (s := u) full]

end Sys2Proof.Machine

/-! Chapter 5's CLEAR_PHANTOM: the entries that its number names, and the obligation settled from them. -/

namespace Sys2Proof.Machine

/-! ### The entries that a number names (R99) -/

/-- The entry is a phantom that CLEAR_PHANTOM's number names: its own number, or 0 for every phantom. -/
def Entry.namedBy (number : Byte) (e : Entry) : Bool :=
  match e.kind with
  | .phantom m _ _ _ => number == 0 || number.toNat == m.val + 1
  | .truck _ => false

/-- Number 0 names every phantom. -/
theorem Entry.namedBy_zero : Entry.namedBy 0 = Entry.isPhantom := by
  funext e
  cases kind : e.kind <;> simp [Entry.namedBy, Entry.isPhantom, kind]

/-- Another number names the phantoms that hold it. -/
theorem Entry.namedBy_of_ne_zero {number : Byte} (nonzero : number ≠ 0) (e : Entry) :
    e.namedBy number = true ↔ ∃ m : PhantomNo, e.isPhantomNo m = true ∧ phantomNoOf number = some m := by
  have notAll : number ≠ 0#8 := nonzero
  cases kind : e.kind with
  | truck k => simp [Entry.namedBy, Entry.isPhantomNo, kind]
  | phantom m c x o => simp [Entry.namedBy, Entry.isPhantomNo, kind, notAll, phantomNoOf_eq_some]

/-- A number that a phantom can hold names the phantom that holds it. -/
theorem Entry.namedBy_of_number {number : Byte} {n : PhantomNo} (nonzero : number ≠ 0)
    (read : phantomNoOf number = some n) : Entry.namedBy number = fun e => e.isPhantomNo n := by
  funext e
  rw [Bool.eq_iff_iff, Entry.namedBy_of_ne_zero nonzero, read]
  simp

/-- Any other number names no entry. -/
theorem Entry.namedBy_of_no_number {number : Byte} (nonzero : number ≠ 0) (read : phantomNoOf number = none)
    (e : Entry) : e.namedBy number = false := by
  simp [Bool.eq_false_iff, Entry.namedBy_of_ne_zero nonzero, read]

/-! ### The two answers of R99 -/

/-- Whatever the number, CLEAR_PHANTOM removes the entries it names, or refuses when there are none. -/
theorem clearPhantomRule_eq (number : Byte) (flag : Bool) (s : State) :
    clearPhantomRule number flag s =
      if s.line.any (Entry.namedBy number) then
        (s.removeEntries (Entry.namedBy number), .ack .clearPhantom flag [number])
      else (s, .refused .clearPhantom .noSuchEntry flag) := by
  by_cases zero : number = 0
  · rw [clearPhantomRule, if_pos zero, zero, Entry.namedBy_zero]
  · rw [clearPhantomRule, if_neg zero]
    cases read : phantomNoOf number with
    | none => simp [Entry.namedBy_of_no_number zero read]
    | some n => rw [Entry.namedBy_of_number zero read]

theorem exec_clearPhantom_of_rule {s v : State} {number : Byte} {a : Answer} (hears : s.hears .dispatch = true)
    (answer : clearPhantomRule number s.isoBusy { s with isoSeq := .none } = (v, a)) :
    exec (.clearPhantom number) s = .next (v.send .dispatch a) :=
  congrArg Host.Outcome.next (State.request_abandoning hears answer)

/-- Settles O33: R99's rule chooses between removal and refusal, whether the number is 0, a phantom's or neither. -/
theorem clearPhantomRemoves : Obligations.ClearPhantomRemoves := by
  intro s number hears u named
  have isNamed : Entry.namedBy number = named := rfl
  refine ⟨fun standing => exec_clearPhantom_of_rule hears ?_, fun absent => exec_clearPhantom_of_rule hears ?_⟩
  · rw [clearPhantomRule_eq, isNamed, if_pos standing]
  · rw [clearPhantomRule_eq, isNamed, if_neg (Bool.eq_false_iff.1 absent)]

end Sys2Proof.Machine

/-! Chapter 5's detector edges: what a rise and a fall make of the channel's record, and the obligation settled from
them. -/

namespace Sys2Proof.Machine

/-! ### The channel's record after a rise (R86, R87) -/

theorem Channel.risen_idle {c : Channel} (state : c.state = .idle) (now : Time) (overlong : Nat) :
    c.risen now overlong = { c with
      state := .present, spent := false, rise := some now, overlong := some (after now (overlong * 1000)) } := by
  rw [Channel.risen, state]

theorem Channel.risen_trailing {c : Channel} (state : c.state = .trailing) (now : Time) (overlong : Nat) :
    c.risen now overlong = { c with state := .present, blanking := none } := by
  rw [Channel.risen, state]

/-! ### Edges in a reset and outside one (R156) -/

section Edges
variable {s : State} (j : Joint)

theorem exec_detectorRise_inReset (reset : s.inReset = true) :
    exec (.detectorRise j) s = .next (s.setDet j true) :=
  congrArg Host.Outcome.next (if_pos reset)

theorem exec_detectorRise_of_running (running : s.inReset = false) :
    exec (.detectorRise j) s =
      .next ((s.setDet j true).setChannel j ((s.channel j).risen s.now s.params.overlong)) :=
  congrArg Host.Outcome.next (if_neg (Bool.eq_false_iff.1 running))

theorem exec_detectorFall_inReset (reset : s.inReset = true) :
    exec (.detectorFall j) s = .next (s.setDet j false) :=
  congrArg Host.Outcome.next (if_pos (.inl reset))

theorem exec_detectorFall_present (running : s.inReset = false) (state : (s.channel j).state = .present) :
    exec (.detectorFall j) s = .next ((s.setDet j false).setChannel j { s.channel j with
      state := .trailing, lastFall := some s.now, blanking := some (after s.now s.params.blanking) }) :=
  congrArg Host.Outcome.next (if_neg (by simp [running, state]))

end Edges

/-- Settles O35: a reset hides the edge from the channel; outside one the channel's state picks the case of R86 and
R87. -/
theorem detectorEdgesMoveChannel : Obligations.DetectorEdgesMoveChannel := by
  intro s j c pin
  refine ⟨fun reset => ⟨exec_detectorRise_inReset j reset, exec_detectorFall_inReset j reset⟩,
    fun running idle => ?_, fun running trailing => ?_,
    fun running present => exec_detectorFall_present j running present⟩
  · rw [exec_detectorRise_of_running j running, Channel.risen_idle idle]
    rfl
  · rw [exec_detectorRise_of_running j running, Channel.risen_trailing trailing]
    rfl

end Sys2Proof.Machine

/-! Chapter 7's computation: the target pass entry by entry, the charges it leads to, the raise grant and the committed
load, and the obligation settled from them. -/

namespace Sys2Proof.Machine

/-! ### An entry record (R125, R127, R128) -/

theorem SnapEntry.of_kind_drawing {e : SnapEntry} {k : Slot} {f : Option U16} {r m y : Nat}
    (kind : e.kind = .truck k f .drawing r m y) :
    e.drawing = true ∧ e.held = 0 ∧ e.candidate = ⟨e.modelSpan, r, m, true⟩ ∧ ∀ c, e.charge c = max c y := by
  simp [SnapEntry.drawing, SnapEntry.held, SnapEntry.candidate, SnapEntry.charge, kind]

theorem SnapEntry.of_kind_not_drawing {e : SnapEntry} (other : ∀ k f r m y, e.kind ≠ .truck k f .drawing r m y) :
    e.drawing = false ∧ ∀ c, e.charge c = c := by
  cases kind : e.kind with
  | phantom n c => simp [SnapEntry.drawing, SnapEntry.charge, kind]
  | truck k f st r m y =>
    have idle : st ≠ .drawing := fun drawing => other k f r m y (by rw [kind, drawing])
    simp [SnapEntry.drawing, SnapEntry.charge, kind, idle]

theorem SnapEntry.held_of_drawing {e : SnapEntry} (drawing : e.drawing = true) : e.held = 0 := by
  cases kind : e.kind with
  | phantom n c => simp [SnapEntry.drawing, kind] at drawing
  | truck k f st r m y =>
    have state : st = .drawing := by simpa [SnapEntry.drawing, kind] using drawing
    simp [SnapEntry.held, kind, state]

theorem SnapEntry.candidate_span (e : SnapEntry) : e.candidate.span = e.modelSpan := by
  cases kind : e.kind <;> simp [SnapEntry.candidate, kind]

/-! ### The running set (R127) -/

theorem zipWith_charged_held (es : List SnapEntry) :
    List.zipWith SnapEntry.charged es (es.map SnapEntry.held) = heldCharges es := by
  rw [List.zipWith_map_right, List.zipWith_self]
  rfl

/-- The entries ahead of place `i` with what they were given, the others at their held charge. -/
theorem zipWith_charged_running {es : List SnapEntry} {cs : List Nat} (lengths : cs.length = es.length) (i : Nat) :
    List.zipWith SnapEntry.charged es (cs.take i ++ (es.drop i).map SnapEntry.held) =
      List.zipWith SnapEntry.charged (es.take i) (cs.take i) ++ heldCharges (es.drop i) := by
  have aligned : (es.take i).length = (cs.take i).length := by simp [lengths]
  conv =>
    lhs
    arg 2
    rw [← List.take_append_drop i es]
  rw [List.zipWith_append aligned, zipWith_charged_held]

/-- What the target pass gives the entry at place `i`: its held charge, or the increment on the running set. -/
theorem targetPass_getElem? (x : Snapshot) {es : List SnapEntry} {i : Nat} {e : SnapEntry} (place : es[i]? = some e) :
    (x.targetPass [] es)[i]? = some (
      if e.drawing then
        headroom (x.inputSet (List.zipWith SnapEntry.charged es
          ((x.targetPass [] es).take i ++ (es.drop i).map SnapEntry.held))) e.candidate
      else e.held) := by
  obtain ⟨inside, rfl⟩ := List.getElem?_eq_some_iff.1 place
  obtain ⟨cs, length, pass⟩ := targetPass_append x [] (es.take i) es[i] (es.drop (i + 1))
  rw [List.getElem_cons_drop, List.take_append_drop, List.nil_append] at pass
  have places : cs.length = i := by simp [length, Nat.le_of_lt inside]
  have given : (x.targetPass [] es).take i = cs := by rw [pass, List.take_left' places]
  rw [zipWith_charged_running (targetPass_length x [] es), given, pass,
    List.getElem?_append_right (Nat.le_of_eq places), places, Nat.sub_self]
  rfl

/-- Each target is an increment on the set that the pass has reached, so the pass keeps every limit met (R34, R127). -/
theorem meetsLimits_targetPass (x : Snapshot) (before : List Charged) (es : List SnapEntry)
    (met : meetsLimits (x.inputSet (before ++ heldCharges es)) = true) :
    meetsLimits (x.inputSet (before ++ List.zipWith SnapEntry.charged es (x.targetPass before es))) = true := by
  induction es generalizing before with
  | nil => exact met
  | cons e es ih =>
    rw [Snapshot.targetPass, List.zipWith_cons_cons, List.append_cons]
    refine ih _ ?_
    rw [List.append_assoc, List.singleton_append]
    by_cases drawing : e.drawing = true
    · have raised := meetsLimits_own_entry (c := e.candidate) (ahead := before) (e := e.charged e.held)
        (behind := heldCharges es) rfl e.candidate_span.symm met
      simp only [SnapEntry.charged, SnapEntry.held_of_drawing drawing, Nat.zero_add] at raised
      rw [if_pos drawing]
      exact raised
    · rw [if_neg drawing]
      exact met

/-! ### Held charges and targets (R126, R127) -/

section Targets

variable {x : Snapshot} {i : Nat} {e : SnapEntry}

theorem outcome_eq_overflow_iff (x : Snapshot) : x.outcome = .overflow ↔ x.overflow = true := by
  unfold Snapshot.outcome
  cases x.overflow <;> cases meetsLimits x.heldSet <;> simp

theorem heldOrTargets_of_met (outcome : x.outcome = .met) : x.heldOrTargets = x.targetPass [] x.entries :=
  if_pos outcome

theorem heldOrTargets_of_not_met (outcome : x.outcome ≠ .met) : x.heldOrTargets = x.entries.map SnapEntry.held :=
  if_neg outcome

theorem meetsLimits_targetSet (outcome : x.outcome = .met) : meetsLimits x.targetSet = true := by
  rw [Snapshot.targetSet, heldOrTargets_of_met outcome]
  exact meetsLimits_targetPass x [] x.entries ((outcome_eq_met_iff x).1 outcome).2

/-- With outcome MET a DRAWING truck's target is the increment on the running set. -/
theorem heldOrTargets_met_drawing (outcome : x.outcome = .met) (place : x.entries[i]? = some e)
    (drawing : e.drawing = true) :
    x.heldOrTargets[i]? = some (headroom (x.inputSet (List.zipWith SnapEntry.charged x.entries
      (x.heldOrTargets.take i ++ (x.entries.drop i).map SnapEntry.held))) e.candidate) := by
  rw [heldOrTargets_of_met outcome, targetPass_getElem? x place, if_pos drawing]

/-- With another outcome every entry keeps its held charge. -/
theorem heldOrTargets_not_met (outcome : x.outcome ≠ .met) (place : x.entries[i]? = some e) :
    x.heldOrTargets[i]? = some e.held := by
  rw [heldOrTargets_of_not_met outcome, List.getElem?_map, place, Option.map_some]

theorem heldOrTargets_not_drawing (place : x.entries[i]? = some e) (idle : e.drawing = false) :
    x.heldOrTargets[i]? = some e.held := by
  by_cases outcome : x.outcome = .met
  · rw [heldOrTargets_of_met outcome, targetPass_getElem? x place, if_neg (Bool.eq_false_iff.1 idle)]
  · exact heldOrTargets_not_met outcome place

/-- Whatever the outcome, a target is 0 or a multiple of the grant quantum from I_min to the request. -/
theorem target_shape {c : Nat} (place : x.entries[i]? = some e) (drawing : e.drawing = true)
    (target : x.heldOrTargets[i]? = some c) :
    c = 0 ∨ (e.candidate.iMin ≤ c ∧ c ≤ e.candidate.request ∧ c % 50 = 0) := by
  by_cases outcome : x.outcome = .met
  · obtain rfl := Option.some.inj (target.symm.trans (heldOrTargets_met_drawing outcome place drawing))
    exact headroom_shape _ _
  · obtain rfl := Option.some.inj (target.symm.trans (heldOrTargets_not_met outcome place))
    exact .inl (SnapEntry.held_of_drawing drawing)

theorem charges_getElem? {c : Nat} (place : x.entries[i]? = some e) (given : x.heldOrTargets[i]? = some c) :
    x.charges[i]? = some (e.charge c) := by
  simp [Snapshot.charges, List.getElem?_zipWith, place, given]

end Targets

/-! ### The raise grant and the committed load (R129, R130) -/

section Raise

variable {x : Snapshot} {h : SnapHead} {a : Nat}

theorem grant_eq_some_iff_raiseAmount :
    x.grant = some (h, a) ↔ x.head = some h ∧ a = x.raiseAmount ∧ 0 < a := by
  by_cases nothing : x.raiseAmount = 0
  · have ungranted : x.grant = none := if_pos nothing
    rw [ungranted, nothing]
    exact iff_of_false nofun fun ⟨_, amount, positive⟩ => Nat.ne_of_gt positive amount
  · have granted : x.grant = x.head.map fun h => (h, x.raiseAmount) := if_neg nothing
    rw [granted, Option.map_eq_some_iff]
    constructor
    · rintro ⟨_, head, ⟨⟩⟩
      exact ⟨head, rfl, Nat.pos_of_ne_zero nothing⟩
    · rintro ⟨head, rfl, -⟩
      exact ⟨h, head, rfl⟩

theorem raiseAmount_of_head (head : x.head = some h) :
    x.raiseAmount =
      if x.outcome = .met ∧ x.gate ∧ h.spanOpen ∧ !h.spanOccupied then
        headroom x.chargesSet ⟨h.span, h.request, h.iMin, false⟩
      else 0 := by
  rw [Snapshot.raiseAmount, head]

/-- The conditions of R129, and the amount. -/
theorem grant_eq_some_iff :
    x.grant = some (h, a) ↔
      x.outcome = .met ∧ x.gate = true ∧ x.head = some h ∧ h.spanOpen = true ∧ h.spanOccupied = false ∧
        a = headroom x.chargesSet ⟨h.span, h.request, h.iMin, false⟩ ∧ 0 < a := by
  rw [grant_eq_some_iff_raiseAmount]
  constructor
  · rintro ⟨head, amount, positive⟩
    rw [raiseAmount_of_head head] at amount
    split at amount
    next conditions =>
      obtain ⟨outcome, gate, opened, free⟩ := conditions
      exact ⟨outcome, gate, head, opened, by simpa using free, amount, positive⟩
    next => omega
  · rintro ⟨outcome, gate, head, opened, free, amount, positive⟩
    rw [raiseAmount_of_head head, if_pos ⟨outcome, gate, opened, by simp [free]⟩]
    exact ⟨head, amount, positive⟩

theorem committedLoad_of_no_grant (ungranted : x.grant = none) : x.committedLoad = x.chargesSet := by
  rw [Snapshot.committedLoad, ungranted]

theorem committedLoad_of_grant (grant : x.grant = some (h, a)) :
    x.committedLoad = { x.chargesSet with entries := x.chargesSet.entries ++ [⟨true, h.span, a⟩] } := by
  rw [Snapshot.committedLoad, grant]

/-- The grant is an increment, so the load with it meets every limit (R34) and its amount has the shape of R33. -/
theorem committedLoad_meets_limits (grant : x.grant = some (h, a)) :
    meetsLimits x.committedLoad = true ∧ h.iMin ≤ a ∧ a ≤ h.request ∧ a % 50 = 0 := by
  obtain ⟨-, -, -, -, -, rfl, positive⟩ := grant_eq_some_iff.1 grant
  rw [committedLoad_of_grant grant]
  exact ⟨meetsLimits_new_entry rfl positive true, (headroom_shape _ _).resolve_left (Nat.ne_of_gt positive)⟩

theorem grant_of_not_met (outcome : x.outcome ≠ .met) : x.grant = none :=
  Option.eq_none_iff_forall_ne_some.2 fun _ grant => outcome (grant_eq_some_iff.1 grant).1

end Raise

/-- Settles O46: every target and the raise grant is an increment, which keeps each limit that is met (R34). -/
theorem targetsMeetEveryLimit : Obligations.TargetsMeetEveryLimit := by
  intro x held isTruck set
  have heldIs : held = SnapEntry.held := rfl
  have setIs (charges : List Nat) : set charges = x.inputSet (List.zipWith SnapEntry.charged x.entries charges) := rfl
  rw [heldIs]
  refine ⟨⟨?_, rfl, rfl, heldOrTargets_length x, charges_length x⟩,
    ⟨outcome_eq_overflow_iff x, outcome_eq_met_iff x⟩,
    fun met => ⟨meetsLimits_targetSet met, fun i e k f r m y place kind => ?_⟩,
    fun notMet => ⟨grant_of_not_met notMet, fun i e k f r m y place kind => ?_⟩,
    fun i e c k f r m y place kind target => ?_, fun i e place other => ?_, fun h a => grant_eq_some_iff,
    committedLoad_of_no_grant, fun h a grant => ⟨committedLoad_of_grant grant, committedLoad_meets_limits grant⟩⟩
  · rw [setIs, zipWith_charged_held, Snapshot.heldSet]
  · obtain ⟨drawing, -, candidate, -⟩ := SnapEntry.of_kind_drawing kind
    rw [setIs, heldOrTargets_met_drawing met place drawing, candidate]
  · obtain ⟨-, nothing, -, -⟩ := SnapEntry.of_kind_drawing kind
    rw [heldOrTargets_not_met notMet place, nothing]
  · obtain ⟨drawing, -, candidate, charge⟩ := SnapEntry.of_kind_drawing kind
    have shape := target_shape place drawing target
    simp only [candidate] at shape
    exact ⟨shape, fun small least => by omega, by rw [charges_getElem? place target, charge]⟩
  · obtain ⟨idle, charge⟩ := SnapEntry.of_kind_not_drawing other
    have given := heldOrTargets_not_drawing place idle
    exact ⟨given, by rw [charges_getElem? place given, charge]⟩

end Sys2Proof.Machine

/-! Chapter 8's isolation sequence and RESTORE: the cases of R139, R140 and R144, what a request of each port does to the
sequence, and the three obligations settled from them. -/

namespace Sys2Proof.Machine

/-! ### ISO_FROM and ISO_TO (R139, R140) -/

section Steps
variable {s : State} {x : Byte}

theorem isoFromRule_outside (outside : s.inSection x.toNat = false) :
    isoFromRule x s = ({ s with isoSeq := .none }, .refused .isoFrom .spanInvalid s.isoBusy) :=
  if_neg (Bool.eq_false_iff.1 outside)

theorem isoFromRule_inside (inside : s.inSection x.toNat = true) :
    isoFromRule x s = ({ s with isoSeq := .fromSet x.toNat }, .ack .isoFrom s.isoBusy [x]) :=
  if_pos inside

/-- Case 1 of R140. -/
theorem isoToRule_outside (outside : s.inSection x.toNat = false) :
    isoToRule x s = ({ s with isoSeq := .none }, .refused .isoTo .spanInvalid s.isoBusy) := by
  rw [isoToRule, outside]
  rfl

/-- Case 2 of R140. -/
theorem isoToRule_not_fromSet (inside : s.inSection x.toNat = true) (other : ∀ a, s.isoSeq ≠ .fromSet a) :
    isoToRule x s = ({ s with isoSeq := .none }, .refused .isoTo .sequence s.isoBusy) := by
  cases seq : s.isoSeq with
  | fromSet a => exact absurd seq (other a)
  | none | toSet a b => simp only [isoToRule, inside, seq, Bool.not_true, Bool.false_eq_true, if_false]

/-- Case 3 of R140. -/
theorem isoToRule_below {a : Nat} (inside : s.inSection x.toNat = true) (seq : s.isoSeq = .fromSet a)
    (below : x.toNat < a) :
    isoToRule x s = ({ s with isoSeq := .none }, .refused .isoTo .sequence s.isoBusy) := by
  simp only [isoToRule, inside, seq, below, Bool.not_true, Bool.false_eq_true, if_false, if_true]

/-- Case 4 of R140. -/
theorem isoToRule_taken {a : Nat} (inside : s.inSection x.toNat = true) (seq : s.isoSeq = .fromSet a)
    (above : a ≤ x.toNat) :
    isoToRule x s = ({ s with isoSeq := .toSet a x.toNat }, .ack .isoTo false [byte a, x]) := by
  simp only [isoToRule, inside, seq, Nat.not_lt.2 above, Bool.not_true, Bool.false_eq_true, if_false]

theorem exec_isoFrom_of_rule {v : State} {a : Answer} (hears : s.hears .dispatch = true)
    (answer : isoFromRule x s = (v, a)) : exec (.isoFrom x) s = .next (v.send .dispatch a) :=
  congrArg Host.Outcome.next (by rw [State.request_of_hears _ hears, answer])

theorem exec_isoTo_of_rule {v : State} {a : Answer} (hears : s.hears .dispatch = true)
    (answer : isoToRule x s = (v, a)) : exec (.isoTo x) s = .next (v.send .dispatch a) :=
  congrArg Host.Outcome.next (by rw [State.request_of_hears _ hears, answer])

end Steps

theorem State.isoBusy_fromSet {s : State} {a : Nat} (seq : s.isoSeq = .fromSet a) : s.isoBusy = true := by
  rw [State.isoBusy, seq]
  rfl

/-- Settles O27: the section decides the first case of R139 and R140, the sequence the others of R140. -/
theorem isolationSequenceSteps : Obligations.IsolationSequenceSteps := by
  intro s x hears busy goes
  refine ⟨fun outside => ⟨exec_isoFrom_of_rule hears (isoFromRule_outside outside),
      exec_isoTo_of_rule hears (isoToRule_outside outside)⟩,
    fun inside => ⟨exec_isoFrom_of_rule hears (isoFromRule_inside inside),
      fun a seq above => exec_isoTo_of_rule hears (isoToRule_taken inside seq above),
      fun a seq below => exec_isoTo_of_rule hears ?_,
      fun other => exec_isoTo_of_rule hears (isoToRule_not_fromSet inside other)⟩⟩
  rw [isoToRule_below inside seq below, State.isoBusy_fromSet seq]

/-! ### RESTORE (R144) -/

theorem mem_spanRange {a b i : Nat} : i ∈ spanRange a b ↔ a ≤ i ∧ i ≤ b := by
  rw [spanRange, List.mem_filter, List.mem_range, decide_eq_true_iff]
  omega

theorem State.spanStates_getElem (s : State) (i : Fin 16) : s.spanStates[i] = s.spanState i.val := by
  simp [State.spanState]

/-- Every span from `a` to `b` is opened. -/
def State.openSpans (s : State) (a b : Nat) : State :=
  (spanRange a b).foldl (fun s i => s.setSpanState i .opened) s

theorem State.openSpans_spec (s : State) (a b : Nat) :
    (∀ m, m < 16 → (s.openSpans a b).spanState m = if a ≤ m ∧ m ≤ b then .opened else s.spanState m) ∧
      s.openSpans a b = { s with spanStates := (s.openSpans a b).spanStates } := by
  obtain ⟨states, frame⟩ := State.spanState_fold (fun s i => s.setSpanState i .opened) (fun _ _ => .opened)
    (fun _ _ => rfl) (fun _ _ => rfl) (spanRange a b) s
  simp only [mem_spanRange] at states
  exact ⟨states, frame⟩

section Restore
variable {s : State} {a b : Byte}

theorem restoreRule_refused (flag : Bool)
    (outside : s.inSection a.toNat = false ∨ s.inSection b.toNat = false ∨ b.toNat < a.toNat) :
    restoreRule a b flag s = (s, .refused .restore .spanInvalid flag) := by
  refine if_neg fun ⟨insideA, insideB, ordered⟩ => ?_
  rcases outside with outside | outside | below
  · exact Bool.eq_false_iff.1 outside insideA
  · exact Bool.eq_false_iff.1 outside insideB
  · omega

theorem restoreRule_taken (flag : Bool) (insideA : s.inSection a.toNat = true) (insideB : s.inSection b.toNat = true)
    (ordered : a.toNat ≤ b.toNat) :
    restoreRule a b flag s = (s.openSpans a.toNat b.toNat, .ack .restore flag [a, b]) :=
  if_pos ⟨insideA, insideB, ordered⟩

theorem exec_restore_of_rule {v : State} {answer : Answer} (hears : s.hears .dispatch = true)
    (handled : restoreRule a b s.isoBusy { s with isoSeq := .none } = (v, answer)) :
    exec (.restore a b) s = .next (v.send .dispatch answer) :=
  congrArg Host.Outcome.next (State.request_abandoning hears handled)

end Restore

/-- Settles O29: the section and the order of `a` and `b` decide the answer, and `State.openSpans_spec` says what the
spans of the range become. -/
theorem restoreOpensTheRange : Obligations.RestoreOpensTheRange := by
  intro s a b hears
  refine ⟨fun outside => exec_restore_of_rule hears (restoreRule_refused _ outside),
    fun insideA insideB ordered => ?_⟩
  let u : State := { s with isoSeq := .none }
  obtain ⟨states, frame⟩ := u.openSpans_spec a.toNat b.toNat
  refine ⟨(u.openSpans a.toNat b.toNat).spanStates, fun i => ?_, ?_⟩
  · rw [State.spanStates_getElem, states i.val i.isLt, State.spanStates_getElem]
    rfl
  · rw [exec_restore_of_rule hears (restoreRule_taken _ insideA insideB ordered)]
    exact congrArg (fun v : State => Host.Outcome.next (v.send .dispatch (.ack .restore s.isoBusy [a, b]))) frame

end Sys2Proof.Machine

/-! Chapter 8's R142: what a dispatch request of each class leaves of the isolation sequence and how its answer is
flagged, that nothing else on the ports reaches the sequence, and the obligation settled from them. -/

namespace Sys2Proof.Machine

/-! ### Operations that leave the sequence

The time base is kept beside it where a dispatch request runs the operation, for the time its answer bears. -/

section Kept
variable (s : State)

@[simp] theorem State.send_isoSeq (p : Port) (a : Answer) : (s.send p a).isoSeq = s.isoSeq :=
  s.setPort_isoSeq p _

@[simp] theorem State.removeEntries_isoSeq (q : Entry → Bool) : (s.removeEntries q).isoSeq = s.isoSeq := by
  rw [State.removeEntries_frame]

@[simp] theorem State.removeEntries_now (q : Entry → Bool) : (s.removeEntries q).now = s.now := by
  rw [State.removeEntries_frame]

@[simp] theorem State.convert_isoSeq (k : Slot) (current : Nat) (origin : Option (Slot × U16)) :
    (s.convert k current origin).isoSeq = s.isoSeq := by
  unfold State.convert
  split
  · rfl
  · exact s.removeEntries_isoSeq _

@[simp] theorem State.convert_now (k : Slot) (current : Nat) (origin : Option (Slot × U16)) :
    (s.convert k current origin).now = s.now := by
  unfold State.convert
  split
  · rfl
  · exact s.removeEntries_now _

@[simp] theorem State.lowerOrder_isoSeq (k : Slot) : (s.lowerOrder k).isoSeq = s.isoSeq := by
  rw [State.lowerOrder_frame, State.setTruck_isoSeq]

@[simp] theorem State.setSilence_isoSeq (k : Slot) : (s.setSilence k).isoSeq = s.isoSeq := by
  dsimp only [State.setSilence]
  split <;> rfl

@[simp] theorem State.applyWanted_isoSeq (k : Slot) (wanted : Nat) : (s.applyWanted k wanted).isoSeq = s.isoSeq := by
  dsimp only [State.applyWanted]
  split <;> rfl

@[simp] theorem State.acceptRaise_isoSeq (k : Slot) (span request iMin : Nat) :
    (s.acceptRaise k span request iMin).isoSeq = s.isoSeq := by
  unfold State.acceptRaise
  split <;> rfl

@[simp] theorem State.takenFrom_isoSeq (k : Slot) : (s.takenFrom k).isoSeq = s.isoSeq := rfl
@[simp] theorem State.enterStandby_isoSeq (k : Slot) (h : Option Time) : (s.enterStandby k h).isoSeq = s.isoSeq := rfl
@[simp] theorem State.evaluateCut_isoSeq (k : Slot) : (s.evaluateCut k).isoSeq = s.isoSeq := rfl
@[simp] theorem State.enterDrawing_isoSeq (k : Slot) : (s.enterDrawing k).isoSeq = s.isoSeq := rfl
@[simp] theorem State.recordStatus_isoSeq (k : Slot) (p : Panto) (inForce measured : Nat) :
    (s.recordStatus k p inForce measured).isoSeq = s.isoSeq := rfl
@[simp] theorem State.limit_isoSeq (k : Slot) : (s.limit k).1.isoSeq = s.isoSeq := rfl
@[simp] theorem State.unqueue_isoSeq (k : Slot) : (s.unqueue k).isoSeq = s.isoSeq := rfl
@[simp] theorem State.freeSlot_isoSeq (k : Slot) : (s.freeSlot k).isoSeq = s.isoSeq := rfl

@[simp] theorem State.downReport_isoSeq (k : Slot) (fleet : U16) : (s.downReport k fleet).isoSeq = s.isoSeq :=
  s.removeEntries_isoSeq _

@[simp] theorem State.removeTruck_isoSeq (k : Slot) : (s.removeTruck k).isoSeq = s.isoSeq :=
  s.removeEntries_isoSeq _

@[simp] theorem State.pantoTransition_isoSeq (k : Slot) (p : Panto) : (s.pantoTransition k p).isoSeq = s.isoSeq := by
  unfold State.pantoTransition
  split <;> simp [apply_ite State.isoSeq]

theorem State.applyBar_now (a b : Nat) : (s.applyBar a b).now = s.now := by
  have purged (u : State) (i : Nat) : (u.purgeSpan i).now = u.now := by
    unfold State.purgeSpan
    exact List.foldlRecOn _ _ (motive := fun v : State => v.now = u.now) rfl fun v ih e _ => ih
  have barred := (State.barSpan_fold (spanRange a b) s).2
  unfold State.applyBar
  refine List.foldlRecOn _ _ (motive := fun v : State => v.now = s.now) ?_ fun v ih i _ => (purged v i).trans ih
  rw [barred]

end Kept

/-! ### The requests of the other ports -/

section OtherPorts
variable (s : State)

/-- Whether its port hears it or not, a request leaves the sequence as its rule does. -/
theorem State.request_isoSeq {s : State} {rule : State → State × Answer} (p : Port)
    (kept : (rule s).1.isoSeq = s.isoSeq) : (s.request p rule).isoSeq = s.isoSeq := by
  unfold State.request
  split
  · exact (State.send_isoSeq _ _ _).trans kept
  · split
    · exact s.setPort_isoSeq p _
    · rfl

theorem joinRule_isoSeq (fleet : U16) : (joinRule fleet s).1.isoSeq = s.isoSeq := by
  unfold joinRule
  split
  · rfl
  · split
    · simp
    · split <;> rfl

theorem statusRule_isoSeq (slot : Byte) (fleet : U16) (panto : Byte) (inForce measured wanted : U16) :
    (statusRule slot fleet panto inForce measured wanted s).1.isoSeq = s.isoSeq := by
  unfold statusRule
  split
  · rfl
  · by_cases down : pantoOf panto = .down <;> simp [down]

theorem raiseRule_isoSeq (slot : Byte) (fleet : U16) (span : Byte) (request iMin : U16) :
    (raiseRule slot fleet span request iMin s).1.isoSeq = s.isoSeq := by
  unfold raiseRule
  split
  · rfl
  · dsimp only
    split <;> simp

theorem cancelRule_isoSeq (slot : Byte) (fleet : U16) : (cancelRule slot fleet s).1.isoSeq = s.isoSeq := by
  unfold cancelRule
  split
  · rfl
  · dsimp only
    split <;> simp

theorem leaveRule_isoSeq (slot : Byte) (fleet : U16) : (leaveRule slot fleet s).1.isoSeq = s.isoSeq := by
  unfold leaveRule
  split
  · rfl
  · dsimp only
    split <;> simp

@[simp] theorem State.overdrawCheck_isoSeq (f : Feed) (b : Breaker) (output : Nat) :
    (s.overdrawCheck f b output).isoSeq = s.isoSeq := by
  dsimp only [State.overdrawCheck]
  split
  · split <;> simp
  · rfl

@[simp] theorem State.takeReport_isoSeq (f : Feed) (volts capacity : Nat) (b : Breaker) (output : Nat) :
    (s.takeReport f volts capacity b output).isoSeq = s.isoSeq := by
  unfold State.takeReport
  cases b with
  | closed => simp
  | opened => simp [apply_ite State.isoSeq]

theorem feedReportRule_isoSeq (f : Feed) (ident : Byte) (volts capacity : U16) (breaker : Byte) (output : U16) :
    (feedReportRule f ident volts capacity breaker output s).1.isoSeq = s.isoSeq := by
  unfold feedReportRule
  split <;> simp

/-- A request of a port that is not the dispatch port leaves the sequence, heard or not. -/
theorem exec_other_port_isoSeq {c : Instr} {p : Port} {kind : ReqKind} {payload : List Byte}
    (parts : requestParts c = some (p, kind, payload)) (other : p ≠ .dispatch) :
    ∃ t, exec c s = .next t ∧ t.isoSeq = s.isoSeq := by
  cases c with
  | join f => exact ⟨_, rfl, State.request_isoSeq _ (joinRule_isoSeq s f)⟩
  | status n f u i m w => exact ⟨_, rfl, State.request_isoSeq _ (statusRule_isoSeq s n f u i m w)⟩
  | raise n f x r i => exact ⟨_, rfl, State.request_isoSeq _ (raiseRule_isoSeq s n f x r i)⟩
  | cancel n f => exact ⟨_, rfl, State.request_isoSeq _ (cancelRule_isoSeq s n f)⟩
  | leave n f => exact ⟨_, rfl, State.request_isoSeq _ (leaveRule_isoSeq s n f)⟩
  | feedReport f i v c b o => exact ⟨_, rfl, State.request_isoSeq _ (feedReportRule_isoSeq s f i v c b o)⟩
  | shed f c => exact ⟨_, rfl, State.request_isoSeq _ (s.setSide_isoSeq f _)⟩
  | shedRelease f => exact ⟨_, rfl, State.request_isoSeq _ (s.setSide_isoSeq f _)⟩
  | _ => cases parts <;> exact absurd rfl other

end OtherPorts

/-! ### Frames that are not taken -/

theorem exec_frameDiscarded_isoSeq (s : State) (p : Port) (w : Discard) :
    ∃ t, exec (.frameDiscarded p w) s = .next t ∧ t.isoSeq = s.isoSeq := by
  have discarded : (s.discardFrame p).isoSeq = s.isoSeq := s.setPort_isoSeq p _
  have unknown : (s.discardKind p).isoSeq = s.isoSeq := s.setPort_isoSeq p _
  refine ⟨_, rfl, ?_⟩
  split
  · cases w with
    | complete kind payload check =>
      dsimp only
      split
      · exact discarded
      · exact unknown
      · exact discarded
      · rfl
    | lengthByte value => simp [apply_ite State.isoSeq, discarded]
    | missingStop => simp [apply_ite State.isoSeq, discarded]
  · rfl

/-! ### The classes of R142 -/

/-- The requests that step the sequence. -/
def sequenceKinds : List ReqKind := [.isoFrom, .isoTo, .isoApply]

/-- The requests that leave it. -/
def queryKinds : List ReqKind := [.querySection, .queryTrucks, .queryLine, .queryFeeds, .querySpans, .queryGrants]

theorem not_query_of_sequence {kind : ReqKind} (own : kind ∈ sequenceKinds) : kind ∉ queryKinds := by
  revert kind
  decide

/-- What R142 says of a dispatch request of kind `kind` that found `s` and leaves `v` with answer `a`, by its class. -/
structure SequenceHandled (s : State) (kind : ReqKind) (v : State) (a : Answer) : Prop where
  other : kind ∉ sequenceKinds → kind ∉ queryKinds → v.isoSeq = .none ∧
    ((∃ echo, a = .ack kind (s.isoSeq != .none) echo) ∨ ∃ r, a = .refused kind r (s.isoSeq != .none))
  own : kind ∈ sequenceKinds → ∀ r flag, a = .refused kind r flag → v.isoSeq = .none ∧ flag = (s.isoSeq != .none)
  query : kind ∈ queryKinds → v.isoSeq = s.isoSeq ∧
    ((∃ part bytes, a = .report kind part bytes) ∨ ∃ r, a = .refused kind r false)

/-- A rule that answers ACK or REFUSED with the flag it was given, and leaves the sequence and the time base. -/
inductive AnswersFlagged (kind : ReqKind) (flag : Bool) (s : State) : State × Answer → Prop
  | ack {v : State} {echo : List Byte} (sequence : v.isoSeq = s.isoSeq) (time : v.now = s.now) :
    AnswersFlagged kind flag s (v, .ack kind flag echo)
  | refused {r : Reason} : AnswersFlagged kind flag s (s, .refused kind r flag)

/-- A rule of the sequence's own: taken, or refused with the sequence abandoned. -/
inductive StepsSequence (kind : ReqKind) (s : State) : State × Answer → Prop
  | taken {v : State} {flag : Bool} {echo : List Byte} (time : v.now = s.now) :
    StepsSequence kind s (v, .ack kind flag echo)
  | refused {r : Reason} : StepsSequence kind s ({ s with isoSeq := .none }, .refused kind r s.isoBusy)

/-! ### The rules that abandon a sequence -/

section Abandoning
variable (flag : Bool) (s : State)

theorem setSpanRule_answers (index : Byte) (length : U16) (resistance : Byte) :
    AnswersFlagged .setSpan flag s (setSpanRule index length resistance flag s) := by
  unfold setSpanRule
  split
  · exact .refused
  · split
    · exact .refused
    · exact .ack rfl rfl

theorem setSpanCountRule_answers (count : Byte) :
    AnswersFlagged .setSpanCount flag s (setSpanCountRule count flag s) := by
  unfold setSpanCountRule
  split
  · exact .refused
  · exact .ack rfl rfl

theorem setParamRule_answers (number : Byte) (value : U16) :
    AnswersFlagged .setParam flag s (setParamRule number value flag s) := by
  unfold setParamRule
  split
  · exact .refused
  · split
    · exact .refused
    · exact .ack rfl rfl

theorem storeRule_answers : AnswersFlagged .store flag s (storeRule flag s) := by
  unfold storeRule
  split
  · exact .refused
  · split
    · exact .refused
    · exact .ack rfl rfl

theorem runRule_answers : AnswersFlagged .run flag s (runRule flag s) := by
  unfold runRule
  split
  · exact .ack rfl rfl
  · exact .ack rfl rfl
  · exact .refused

theorem stopRule_answers : AnswersFlagged .stop flag s (stopRule flag s) := by
  unfold stopRule
  split
  · have frame := (State.stopTrucks_spec { s with sect := .stopped, cycle := none, inFlight := none }).2
    rw [frame]
    exact .ack rfl rfl
  · exact .ack rfl rfl

theorem restoreRule_answers (a b : Byte) : AnswersFlagged .restore flag s (restoreRule a b flag s) := by
  have frame := (s.openSpans_spec a.toNat b.toNat).2
  have sequence : (s.openSpans a.toNat b.toNat).isoSeq = s.isoSeq := by rw [frame]
  have time : (s.openSpans a.toNat b.toNat).now = s.now := by rw [frame]
  unfold restoreRule
  split
  · exact .ack sequence time
  · exact .refused

theorem clearFaultsRule_answers : AnswersFlagged .clearFaults flag s (clearFaultsRule flag s) := .ack rfl rfl

theorem clearPhantomRule_answers (number : Byte) :
    AnswersFlagged .clearPhantom flag s (clearPhantomRule number flag s) := by
  rw [clearPhantomRule_eq]
  split
  · exact .ack (s.removeEntries_isoSeq _) (s.removeEntries_now _)
  · exact .refused

theorem evictRule_answers (slot : Byte) : AnswersFlagged .evict flag s (evictRule slot flag s) := by
  unfold evictRule
  split
  · exact .refused
  · split
    · exact .refused
    · exact .ack rfl rfl
    · exact .ack rfl rfl
    all_goals exact .ack (s.convert_isoSeq _ _ _) (s.convert_now _ _ _)

end Abandoning

/-! ### The sequence's own rules -/

section Own
variable (s : State) (x : Byte)

theorem isoFromRule_steps : StepsSequence .isoFrom s (isoFromRule x s) := by
  unfold isoFromRule
  split
  · exact .taken rfl
  · exact .refused

theorem isoToRule_steps : StepsSequence .isoTo s (isoToRule x s) := by
  unfold isoToRule
  split
  · exact .refused
  · split
    · split
      · exact .refused
      · exact .taken rfl
    · exact .refused

theorem isoApplyRule_steps : StepsSequence .isoApply s (isoApplyRule s) := by
  unfold isoApplyRule
  split
  · exact .taken (s.applyBar_now _ _)
  · exact .refused

end Own

/-! ### Every dispatch request -/

section Handled
variable {s : State} {kind : ReqKind} {result : State × Answer}

theorem AnswersFlagged.handled (answers : AnswersFlagged kind s.isoBusy { s with isoSeq := .none } result)
    (foreign : kind ∉ sequenceKinds) (noQuery : kind ∉ queryKinds) :
    result.1.now = s.now ∧ SequenceHandled s kind result.1 result.2 := by
  cases answers with
  | ack sequence time =>
    exact ⟨time, fun _ _ => ⟨sequence, .inl ⟨_, rfl⟩⟩, fun own => absurd own foreign,
      fun query => absurd query noQuery⟩
  | refused =>
    exact ⟨rfl, fun _ _ => ⟨rfl, .inr ⟨_, rfl⟩⟩, fun own => absurd own foreign,
      fun query => absurd query noQuery⟩

theorem StepsSequence.handled (steps : StepsSequence kind s result) (own : kind ∈ sequenceKinds) :
    result.1.now = s.now ∧ SequenceHandled s kind result.1 result.2 := by
  have noQuery := not_query_of_sequence own
  cases steps with
  | taken time =>
    exact ⟨time, fun foreign => absurd own foreign, fun _ _ _ refused => (nomatch refused),
      fun query => absurd query noQuery⟩
  | refused =>
    refine ⟨rfl, fun foreign => absurd own foreign, fun _ r flag refused => ?_, fun query => absurd query noQuery⟩
    cases refused
    exact ⟨rfl, rfl⟩

/-- A query's answer carries no flag, whether it is a report or a refusal (R164). -/
theorem handled_of_report {v : State} (query : kind ∈ queryKinds) (sequence : v.isoSeq = s.isoSeq)
    (part : Byte) (items : Option (List Item)) : SequenceHandled s kind v (reportOf kind part items) := by
  refine ⟨fun _ noQuery => absurd query noQuery, fun own => absurd query (not_query_of_sequence own),
    fun _ => ⟨sequence, ?_⟩⟩
  cases items with
  | none => exact .inr ⟨_, rfl⟩
  | some items => exact .inl ⟨_, _, rfl⟩

theorem querySectionRule_handled (part : Byte) :
    (querySectionRule part s).1.now = s.now ∧
      SequenceHandled s .querySection (querySectionRule part s).1 (querySectionRule part s).2 := by
  unfold querySectionRule
  have query : ReqKind.querySection ∈ queryKinds := by decide
  split
  · exact ⟨rfl, handled_of_report query (s.setEvents_isoSeq {}) part (some s.sectionItems)⟩
  · exact ⟨rfl, handled_of_report query rfl part none⟩

/-- The request is answered at once, and handled as R142 says of its class. -/
def AnsweredAndHandled (s : State) (kind : ReqKind) (o : Host.Outcome State Fault Refusal) : Prop :=
  ∃ t a, o = .next t ∧ t.dispatchPort.tx = some ⟨a, s.now⟩ ∧ SequenceHandled s kind t a

theorem answered_of_rule {rule : State → State × Answer} (hears : s.hears .dispatch = true)
    (handled : (rule s).1.now = s.now ∧ SequenceHandled s kind (rule s).1 (rule s).2) :
    AnsweredAndHandled s kind (.next (s.request .dispatch rule)) := by
  obtain ⟨time, other, own, query⟩ := handled
  exact ⟨(rule s).1.send .dispatch (rule s).2, (rule s).2,
    congrArg Host.Outcome.next (State.request_of_hears rule hears),
    congrArg (fun now => some (Sending.mk (rule s).2 now)) time, other, own, query⟩

theorem answered_of_flagged {rule : Bool → State → State × Answer} (hears : s.hears .dispatch = true)
    (answers : ∀ flag u, AnswersFlagged kind flag u (rule flag u))
    (foreign : kind ∉ sequenceKinds ∧ kind ∉ queryKinds) :
    AnsweredAndHandled s kind (.next (s.request .dispatch fun u => u.abandoning rule)) :=
  answered_of_rule hears ((answers _ _).handled foreign.1 foreign.2)

theorem answered_of_steps {rule : State → State × Answer} (hears : s.hears .dispatch = true)
    (steps : StepsSequence kind s (rule s)) (own : kind ∈ sequenceKinds) :
    AnsweredAndHandled s kind (.next (s.request .dispatch rule)) :=
  answered_of_rule hears (steps.handled own)

theorem answered_of_report {part : Byte} {items : State → Option (List Item)} (hears : s.hears .dispatch = true)
    (query : kind ∈ queryKinds) :
    AnsweredAndHandled s kind (.next (s.request .dispatch fun u => (u, reportOf kind part (items u)))) :=
  answered_of_rule hears ⟨rfl, handled_of_report query rfl part _⟩

/-- The dispatch port's requests class by class: twelve abandon the sequence, three step it, six ask. -/
theorem exec_dispatch_answered {c : Instr} {payload : List Byte} (hears : s.hears .dispatch = true)
    (parts : requestParts c = some (.dispatch, kind, payload)) : AnsweredAndHandled s kind (exec c s) := by
  cases c with
  | feedReport f => cases f <;> cases parts
  | shed f => cases f <;> cases parts
  | shedRelease f => cases f <;> cases parts
  | setSpan i l r => cases parts; exact answered_of_flagged hears (setSpanRule_answers · · i l r) (by decide)
  | setSpanCount n => cases parts; exact answered_of_flagged hears (setSpanCountRule_answers · · n) (by decide)
  | setParam n v => cases parts; exact answered_of_flagged hears (setParamRule_answers · · n v) (by decide)
  | store => cases parts; exact answered_of_flagged hears storeRule_answers (by decide)
  | run => cases parts; exact answered_of_flagged hears runRule_answers (by decide)
  | stop => cases parts; exact answered_of_flagged hears stopRule_answers (by decide)
  | restore a b => cases parts; exact answered_of_flagged hears (restoreRule_answers · · a b) (by decide)
  | clearFaults => cases parts; exact answered_of_flagged hears clearFaultsRule_answers (by decide)
  | clearPhantom n => cases parts; exact answered_of_flagged hears (clearPhantomRule_answers · · n) (by decide)
  | evict n => cases parts; exact answered_of_flagged hears (evictRule_answers · · n) (by decide)
  | clearCounters => cases parts; exact answered_of_flagged hears (fun _ _ => .ack rfl rfl) (by decide)
  | warmReset => cases parts; exact answered_of_flagged hears (fun _ _ => .ack rfl rfl) (by decide)
  | isoFrom a => cases parts; exact answered_of_steps hears (isoFromRule_steps s a) (by decide)
  | isoTo b => cases parts; exact answered_of_steps hears (isoToRule_steps s b) (by decide)
  | isoApply => cases parts; exact answered_of_steps hears (isoApplyRule_steps s) (by decide)
  | querySection n => cases parts; exact answered_of_rule hears (querySectionRule_handled n)
  | queryTrucks n => cases parts; exact answered_of_report hears (by decide)
  | queryLine n => cases parts; exact answered_of_report hears (by decide)
  | queryFeeds n => cases parts; exact answered_of_report hears (by decide)
  | querySpans n => cases parts; exact answered_of_report hears (by decide)
  | queryGrants n => cases parts; exact answered_of_report hears (by decide)
  | _ => cases parts

end Handled

/-- Settles O30: a dispatch request is answered by its class of R142; no other frame or request writes the sequence. -/
theorem otherRequestAbandonsSequence : Obligations.OtherRequestAbandonsSequence := by
  intro s
  refine ⟨fun hears c kind payload parts => ?_, exec_frameDiscarded_isoSeq s,
    fun c p kind payload parts other => exec_other_port_isoSeq s parts other⟩
  obtain ⟨t, a, next, sent, handled⟩ := exec_dispatch_answered hears parts
  exact ⟨t, a, next, sent, handled.other, handled.own, handled.query⟩

end Sys2Proof.Machine

/-! Chapter 9's RUN and CLEAR_FAULTS: the cases of R149, the flags that R152 keeps with the byte that carries them, and
the two obligations settled from them. -/

namespace Sys2Proof.Machine

/-! ### RUN (R149) -/

section Run
variable {s : State}

theorem runRule_stopped (flag : Bool) (stopped : s.sect = .stopped) :
    runRule flag s = ({ s with sect := .running, cycle := some (after s.now s.params.cyclePeriod) },
      .ack .run flag [2]) := by
  rw [runRule, stopped]
  rfl

theorem runRule_running (flag : Bool) (running : s.sect = .running) :
    runRule flag s = (s, .ack .run flag [2]) := by
  rw [runRule, running]
  rfl

theorem runRule_unconfigured (flag : Bool) (unconfigured : s.sect = .unconfigured) :
    runRule flag s = (s, .refused .run .wrongState flag) := by
  rw [runRule, unconfigured]

theorem exec_run_of_rule {v : State} {answer : Answer} (hears : s.hears .dispatch = true)
    (handled : runRule s.isoBusy { s with isoSeq := .none } = (v, answer)) :
    exec .run s = .next (v.send .dispatch answer) :=
  congrArg Host.Outcome.next (State.request_abandoning hears handled)

end Run

/-- Settles O20: abandoning a sequence leaves the section state alone, so it chooses the case of R149. -/
theorem runBySectionState : Obligations.RunBySectionState := by
  intro s hears
  exact ⟨fun stopped => exec_run_of_rule hears (runRule_stopped _ stopped),
    fun running => exec_run_of_rule hears (runRule_running _ running),
    fun unconfigured => exec_run_of_rule hears (runRule_unconfigured _ unconfigured)⟩

/-! ### CLEAR_FAULTS (R151, R152) -/

/-- PHANTOM_OVERFLOW is bit 4 of the flags byte, and the only bit that can stand after CLEAR_FAULTS. -/
theorem byte_code_of_only_overflow (kept : Bool) :
    byte (FaultFlags.code { phantomOverflow := kept }) = if kept then 16 else 0 := by
  cases kept <;> rfl

theorem clearFaultsRule_eq (flag : Bool) (s : State) :
    clearFaultsRule flag s =
      let kept := s.faults.phantomOverflow && s.phantomCount == 4
      (s.setFaults { phantomOverflow := kept }, .ack .clearFaults flag [if kept then 16 else 0]) := by
  rw [clearFaultsRule, FaultFlags.cleared, byte_code_of_only_overflow]

/-- Settles O22: abandoning a sequence leaves the flags and the phantom count alone, and R152's rule keeps what they
say. -/
theorem clearFaultsKeepsOverflowAtFour : Obligations.ClearFaultsKeepsOverflowAtFour := by
  intro s hears
  exact congrArg Host.Outcome.next (State.request_abandoning hears (clearFaultsRule_eq _ _))

end Sys2Proof.Machine

/-! Chapter 10's frames: what a payload spells, the frame laid out for a request, the check value bit by bit, and O53
settled from them. -/

namespace Sys2Proof.Machine

/-! ### Payloads read and laid out (R163) -/

theorem read0_eq_some {i j : Instr} {l : List Byte} : read0 i l = some j ↔ l = [] ∧ i = j := by
  unfold read0
  split <;> simp_all

theorem read1_eq_some {f : Byte → Instr} {l : List Byte} {j : Instr} :
    read1 f l = some j ↔ ∃ a, l = [a] ∧ f a = j := by
  unfold read1
  split <;> simp_all

theorem read2_eq_some {f : Byte → Byte → Instr} {l : List Byte} {j : Instr} :
    read2 f l = some j ↔ ∃ a b, l = [a, b] ∧ f a b = j := by
  unfold read2
  split <;> simp_all [and_assoc]

theorem read3_eq_some {f : Byte → Byte → Byte → Instr} {l : List Byte} {j : Instr} :
    read3 f l = some j ↔ ∃ a b c, l = [a, b, c] ∧ f a b c = j := by
  unfold read3
  split <;> simp_all [and_assoc]

theorem read4_eq_some {f : Byte → Byte → Byte → Byte → Instr} {l : List Byte} {j : Instr} :
    read4 f l = some j ↔ ∃ a b c d, l = [a, b, c, d] ∧ f a b c d = j := by
  unfold read4
  split <;> simp_all [and_assoc]

theorem read8_eq_some {f : Byte → Byte → Byte → Byte → Byte → Byte → Byte → Byte → Instr} {l : List Byte} {j : Instr} :
    read8 f l = some j ↔ ∃ a b c d e g h i, l = [a, b, c, d, e, g, h, i] ∧ f a b c d e g h i = j := by
  unfold read8
  split <;> simp_all [and_assoc]

theorem read10_eq_some {f : Byte → Byte → Byte → Byte → Byte → Byte → Byte → Byte → Byte → Byte → Instr} {l : List Byte}
    {x : Instr} :
    read10 f l = some x ↔ ∃ a b c d e g h i j k, l = [a, b, c, d, e, g, h, i, j, k] ∧ f a b c d e g h i j k = x := by
  unfold read10
  split <;> simp_all [and_assoc]

/-- A payload that spells a request on a port that accepts its kind is the one laid out for that request. -/
theorem requestParts_of_parse {p : Port} {k : ReqKind} {payload : List Byte} {i : Instr} (accepted : k.onPort p = true)
    (spells : parseRequest p k payload = some i) : requestParts i = some (p, k, payload) := by
  cases k <;> cases p <;> first | exact absurd accepted Bool.false_ne_true | skip
  all_goals
    simp only [parseRequest, read0_eq_some, read1_eq_some, read2_eq_some, read3_eq_some, read4_eq_some, read8_eq_some,
      read10_eq_some] at spells
  case join => obtain ⟨a, b, rfl, rfl⟩ := spells; simp [requestParts, split_word]
  case status => obtain ⟨a, b, c, d, e, g, h, i, j, k, rfl, rfl⟩ := spells; simp [requestParts, split_word]
  case raise => obtain ⟨a, b, c, d, e, g, h, i, rfl, rfl⟩ := spells; simp [requestParts, split_word]
  case feedReport.feedA | feedReport.feedB =>
    obtain ⟨a, b, c, d, e, g, h, i, rfl, rfl⟩ := spells; simp [requestParts, split_word, portFeed]
  case shed.feedA | shed.feedB => obtain ⟨a, b, rfl, rfl⟩ := spells; simp [requestParts, split_word, portFeed]
  case restore => obtain ⟨a, b, rfl, rfl⟩ := spells; rfl
  case cancel | leave | setParam => obtain ⟨a, b, c, rfl, rfl⟩ := spells; simp [requestParts, split_word]
  case setSpan => obtain ⟨a, b, c, d, rfl, rfl⟩ := spells; simp [requestParts, split_word]
  case shedRelease.feedA | shedRelease.feedB | store | run | stop | isoApply | clearFaults | clearCounters | warmReset =>
    obtain ⟨rfl, rfl⟩ := spells; rfl
  all_goals obtain ⟨a, rfl, rfl⟩ := spells; rfl

/-- The payload laid out for a request has its kind's length, and spells that request on the request's own port. -/
theorem parse_of_requestParts {i : Instr} {p : Port} {k : ReqKind} {payload : List Byte}
    (parts : requestParts i = some (p, k, payload)) :
    k.onPort p = true ∧ payload.length = k.length ∧ parseRequest p k payload = some i := by
  cases i
  case feedReport f _ _ _ _ _ =>
    cases f <;> cases parts <;> exact ⟨rfl, rfl, by simp [parseRequest, read8, split, word_split, portFeed]⟩
  case shed f _ =>
    cases f <;> cases parts <;> exact ⟨rfl, rfl, by simp [parseRequest, read2, split, word_split, portFeed]⟩
  case shedRelease f => cases f <;> cases parts <;> exact ⟨rfl, rfl, rfl⟩
  all_goals cases parts
  all_goals exact ⟨rfl, rfl, by simp [parseRequest, read0, read1, read2, read3, read4, read8, read10, split, word_split]⟩

theorem examine_of_requestParts {i : Instr} {p : Port} {k : ReqKind} {payload : List Byte}
    (parts : requestParts i = some (p, k, payload)) :
    examine p k.code payload (frameCheck k.code payload) = .taken i := by
  obtain ⟨accepted, length, spells⟩ := parse_of_requestParts parts
  exact examine_eq_taken_iff.2 ⟨rfl, k, rfl, accepted, length, spells⟩

/-- A frame that is taken is the one laid out for the request it is taken as. -/
theorem requestParts_of_examine {p : Port} {kind : Byte} {payload : List Byte} {check : U16} {i : Instr}
    (taken : examine p kind payload check = .taken i) :
    check = frameCheck kind payload ∧ ∃ k, k.code = kind ∧ requestParts i = some (p, k, payload) := by
  obtain ⟨checked, k, code, accepted, -, spells⟩ := examine_eq_taken_iff.1 taken
  exact ⟨checked, k, code, requestParts_of_parse accepted spells⟩

/-- A port accepts the kinds that some request has on it: a payload of zeros of the kind's length spells one. -/
theorem onPort_iff (k : ReqKind) (p : Port) :
    k.onPort p = true ↔ ∃ i payload, requestParts i = some (p, k, payload) := by
  constructor
  · intro accepted
    have spells : (parseRequest p k (List.replicate k.length 0)).isSome = true := by cases k <;> rfl
    obtain ⟨i, spells⟩ := Option.isSome_iff_exists.1 spells
    exact ⟨i, _, requestParts_of_parse accepted spells⟩
  · rintro ⟨i, payload, parts⟩
    exact (parse_of_requestParts parts).1

/-! ### The check value bit by bit (R160) -/

/-- The division by x^16 + x^15 + x^2 + 1 with one more bit taken in. -/
def checkBit (c : U16) (bit : Bool) : U16 := (c <<< 1) ^^^ (if c.msb != bit then 0x8005 else 0)

/-- The bits of a byte, most significant bit first. -/
def bitsOf (b : Byte) : List Bool := (List.range 8).map fun i => b.getLsbD (7 - i)

theorem checkShift_eq (c : U16) : checkShift c = (c <<< 1) ^^^ (if c.msb then 0x8005 else 0) := by
  unfold checkShift
  split <;> simp_all

/-- The first bit of the byte goes into the check, the others move up one place. -/
theorem checkShift_xor_byte (c : U16) (b : Byte) :
    checkShift (c ^^^ (b.setWidth 16 <<< 8)) = checkBit c b.msb ^^^ ((b <<< 1).setWidth 16 <<< 8) := by
  have top : (c ^^^ (b.setWidth 16 <<< 8)).msb = (c.msb != b.msb) := by
    simp [BitVec.msb_eq_getLsbD_last]
  have rest : (b.setWidth 16 <<< 8) <<< 1 = (b <<< 1).setWidth 16 <<< 8 := by
    have small := b.isLt
    apply BitVec.eq_of_toNat_eq
    simp only [BitVec.toNat_shiftLeft, BitVec.toNat_setWidth, Nat.shiftLeft_eq]
    omega
  rw [checkShift_eq, top, BitVec.shiftLeft_xor_distrib, rest, checkBit, BitVec.xor_assoc, BitVec.xor_assoc,
    BitVec.xor_comm ((b <<< 1).setWidth 16 <<< 8)]

theorem checkByte_eq (c : U16) (b : Byte) : checkByte c b = (bitsOf b).foldl checkBit c := by
  have bits : bitsOf b = [b.msb, (b <<< 1).msb, (b <<< 1 <<< 1).msb, (b <<< 1 <<< 1 <<< 1).msb,
      (b <<< 1 <<< 1 <<< 1 <<< 1).msb, (b <<< 1 <<< 1 <<< 1 <<< 1 <<< 1).msb,
      (b <<< 1 <<< 1 <<< 1 <<< 1 <<< 1 <<< 1).msb, (b <<< 1 <<< 1 <<< 1 <<< 1 <<< 1 <<< 1 <<< 1).msb] := by
    simp [bitsOf, List.range_succ, BitVec.msb_eq_getLsbD_last]
  have gone : (b <<< 1 <<< 1 <<< 1 <<< 1 <<< 1 <<< 1 <<< 1 <<< 1 : Byte) = 0 := by
    apply BitVec.eq_of_toNat_eq
    simp only [BitVec.toNat_shiftLeft, Nat.shiftLeft_eq, BitVec.ofNat_eq_ofNat, BitVec.toNat_ofNat]
    omega
  simp only [checkByte, checkShift_xor_byte, bits, gone, List.foldl_cons, List.foldl_nil]
  simp

theorem checkValue_eq_bits (bs : List Byte) : checkValue bs = (bs.flatMap bitsOf).foldl checkBit 0 := by
  have fold (bs : List Byte) (c : U16) : bs.foldl checkByte c = (bs.flatMap bitsOf).foldl checkBit c := by
    induction bs generalizing c with
    | nil => rfl
    | cons b bs ih => rw [List.foldl_cons, List.flatMap_cons, List.foldl_append, ← checkByte_eq, ih]
  exact fold bs 0

/-- Settles O53: a payload and a request are laid out from each other field by field, and the check takes in a byte bit by
bit; the tables are the definitions' own. -/
theorem requestFramesRoundTrip : Obligations.RequestFramesRoundTrip := by
  refine ⟨fun i p k payload parts => ?_, fun p kind payload check i => requestParts_of_examine, onPort_iff,
    fun kind payload => checkValue_eq_bits _, split_word, by decide, fun a b w x y z => ?_⟩
  · obtain ⟨accepted, length, -⟩ := parse_of_requestParts parts
    exact ⟨accepted, length, examine_of_requestParts parts⟩
  · intro lays onTruck onDispatch
    have feeds (f : Feed) (p : Port) (own : (f, p) ∈ [(Feed.a, Port.feedA), (Feed.b, Port.feedB)]) :
        lays p (.feedReport f a w x b y) .feedReport ([a] ++ split w ++ split x ++ [b] ++ split y) ∧
          lays p (.shed f w) .shed (split w) ∧ lays p (.shedRelease f) .shedRelease [] := by
      simp only [List.mem_cons, List.not_mem_nil, or_false, Prod.mk.injEq] at own
      obtain ⟨rfl, rfl⟩ | ⟨rfl, rfl⟩ := own <;> exact ⟨rfl, rfl, rfl⟩
    exact ⟨rfl, rfl, rfl, rfl, rfl, feeds, rfl, rfl, rfl, rfl, rfl, rfl, rfl, rfl, rfl, rfl, rfl, rfl, rfl, rfl, rfl, rfl,
      rfl, rfl, rfl, rfl, rfl⟩

end Sys2Proof.Machine

/-! What the operations leave alone: the clock, the reset pins, the configuration with its store, the cycle timer and the
computation in flight are one record, and each operation that does not write it keeps it. O1 and O2 are settled from it. -/

namespace Sys2Proof.Machine

/-! ### The fields that few commands write -/

/-- The clock, the inputs and reset pins, the configuration with its store, the section state and the cycle. -/
structure Setup where
  pending : List Instr
  choice : Nat
  now : Time
  det : Vector Bool 17
  coldReset : Bool
  warmHold : Bool
  warmPin : Bool
  sect : SectionState
  spanCount : Option Nat
  spans : Vector SpanRec 16
  params : Params
  derived : Option Net
  stored : StoredCopy
  store : StoreState
  cycle : Option Time
  inFlight : Option Snapshot

def State.setup (s : State) : Setup where
  pending := s.pending
  choice := s.choice
  now := s.now
  det := s.det
  coldReset := s.coldReset
  warmHold := s.warmHold
  warmPin := s.warmPin
  sect := s.sect
  spanCount := s.spanCount
  spans := s.spans
  params := s.params
  derived := s.derived
  stored := s.stored
  store := s.store
  cycle := s.cycle
  inFlight := s.inFlight

/-! ### Operations on one truck's record -/

section TruckOperations
variable (s : State) (k : Slot)

/-- The slot's record is all that `op` writes. -/
def State.WritesTruck (s : State) (k : Slot) (t : State) : Prop := t = s.setTruck k (t.truck k)

theorem State.writesTruck_setTruck (t : Truck) : s.WritesTruck k (s.setTruck k t) := by
  rw [State.WritesTruck, State.truck_setTruck_same]

theorem State.writesTruck_self : s.WritesTruck k s := (s.setTruck_truck k).symm

theorem State.WritesTruck.trans {s t u : State} {k : Slot} (first : s.WritesTruck k t) (second : t.WritesTruck k u) :
    s.WritesTruck k u := calc
  u = t.setTruck k (u.truck k) := second
  _ = (s.setTruck k (t.truck k)).setTruck k (u.truck k) := congrArg (fun v : State => v.setTruck k (u.truck k)) first
  _ = s.setTruck k (u.truck k) := s.setTruck_setTruck k _ _

theorem State.enterStandby_writes (h : Option Time) : s.WritesTruck k (s.enterStandby k h) := s.writesTruck_setTruck k _
theorem State.evaluateCut_writes : s.WritesTruck k (s.evaluateCut k) := s.writesTruck_setTruck k _
theorem State.lowerOrder_writes : s.WritesTruck k (s.lowerOrder k) := s.lowerOrder_frame k

theorem State.setSilence_writes : s.WritesTruck k (s.setSilence k) := by
  dsimp only [State.setSilence]
  split
  case h_4 => exact s.writesTruck_self k
  all_goals exact s.writesTruck_setTruck k _

theorem State.applyWanted_writes (wanted : Nat) : s.WritesTruck k (s.applyWanted k wanted) := by
  dsimp only [State.applyWanted]
  split
  case h_3 => exact s.writesTruck_self k
  all_goals exact s.writesTruck_setTruck k _

theorem State.applyTarget_writes (fleet : Option U16) (target : Nat) :
    s.WritesTruck k (s.applyTarget k fleet target) := by
  dsimp only [State.applyTarget]
  split
  · split
    · exact s.lowerOrder_writes k
    · exact (s.writesTruck_setTruck k _).trans (State.evaluateCut_writes _ k)
  · exact s.writesTruck_self k

end TruckOperations

/-! ### The operations that keep the setup -/

section KeepSetup
variable (s : State)

theorem State.WritesTruck.setup {s t : State} {k : Slot} (writes : s.WritesTruck k t) : t.setup = s.setup := by
  rw [writes]; rfl

@[simp] theorem State.setup_setTruck (k : Slot) (t : Truck) : (s.setTruck k t).setup = s.setup := rfl
@[simp] theorem State.setup_setChannel (j : Joint) (c : Channel) : (s.setChannel j c).setup = s.setup := rfl
@[simp] theorem State.setup_setSpanState (i : Nat) (x : SpanState) : (s.setSpanState i x).setup = s.setup := rfl
@[simp] theorem State.setup_putLine (l : List Entry) : (s.putLine l).setup = s.setup := rfl
@[simp] theorem State.setup_spanGained (i : Nat) : (s.spanGained i).setup = s.setup := rfl
@[simp] theorem State.setup_setFaults (f : FaultFlags) : (s.setFaults f).setup = s.setup := rfl
@[simp] theorem State.setup_setEvents (e : EventFlags) : (s.setEvents e).setup = s.setup := rfl
@[simp] theorem State.setup_setSide (f : Feed) (x : FeedSide) : (s.setSide f x).setup = s.setup := by cases f <;> rfl
@[simp] theorem State.setup_setPort (p : Port) (x : PortState) : (s.setPort p x).setup = s.setup := by cases p <;> rfl
@[simp] theorem State.setup_send (p : Port) (a : Answer) : (s.send p a).setup = s.setup := s.setup_setPort p _
@[simp] theorem State.setup_unqueue (k : Slot) : (s.unqueue k).setup = s.setup := rfl
@[simp] theorem State.setup_freeSlot (k : Slot) : (s.freeSlot k).setup = s.setup := rfl
@[simp] theorem State.setup_limit (k : Slot) : (s.limit k).1.setup = s.setup := rfl
@[simp] theorem State.setup_takenFrom (k : Slot) : (s.takenFrom k).setup = s.setup := rfl
@[simp] theorem State.setup_enterStandby (k : Slot) (h : Option Time) : (s.enterStandby k h).setup = s.setup := rfl
@[simp] theorem State.setup_enterSilent (k : Slot) : (s.enterSilent k).setup = s.setup := rfl
@[simp] theorem State.setup_evaluateCut (k : Slot) : (s.evaluateCut k).setup = s.setup := rfl
@[simp] theorem State.setup_enterDrawing (k : Slot) : (s.enterDrawing k).setup = s.setup := rfl
@[simp] theorem State.setup_expel (k : Slot) (r : Reason) : (s.expel k r).setup = s.setup := rfl

@[simp] theorem State.setup_recordStatus (k : Slot) (p : Panto) (inForce measured : Nat) :
    (s.recordStatus k p inForce measured).setup = s.setup := rfl

@[simp] theorem State.setup_lowerOrder (k : Slot) : (s.lowerOrder k).setup = s.setup := (s.lowerOrder_writes k).setup

@[simp] theorem State.setup_setSilence (k : Slot) : (s.setSilence k).setup = s.setup := (s.setSilence_writes k).setup

@[simp] theorem State.setup_applyWanted (k : Slot) (wanted : Nat) : (s.applyWanted k wanted).setup = s.setup :=
  (s.applyWanted_writes k wanted).setup

@[simp] theorem State.setup_applyTarget (k : Slot) (fleet : Option U16) (target : Nat) :
    (s.applyTarget k fleet target).setup = s.setup := (s.applyTarget_writes k fleet target).setup

@[simp] theorem State.setup_tellEmptied (i : Nat) : (s.tellEmptied i).setup = s.setup := by
  rw [State.tellEmptied_frame]; rfl

@[simp] theorem State.setup_removeEntries (q : Entry → Bool) : (s.removeEntries q).setup = s.setup := by
  rw [State.removeEntries_frame]; rfl

@[simp] theorem State.setup_downReport (k : Slot) (fleet : U16) : (s.downReport k fleet).setup = s.setup :=
  s.setup_removeEntries _

@[simp] theorem State.setup_removeTruck (k : Slot) : (s.removeTruck k).setup = s.setup := s.setup_removeEntries _

@[simp] theorem State.setup_convert (k : Slot) (current : Nat) (origin : Option (Slot × U16)) :
    (s.convert k current origin).setup = s.setup := by
  unfold State.convert
  split
  · rfl
  · exact s.setup_removeEntries _

@[simp] theorem State.setup_tellEntered (i : Nat) (kind : EntryKind) : (s.tellEntered i kind).setup = s.setup := by
  unfold State.tellEntered
  split
  · rfl
  · cases kind with
    | truck k => exact State.setup_lowerOrder _ k
    | phantom => rfl

@[simp] theorem State.setup_pantoTransition (k : Slot) (p : Panto) : (s.pantoTransition k p).setup = s.setup := by
  unfold State.pantoTransition
  split <;> simp [apply_ite State.setup]

@[simp] theorem State.setup_acceptRaise (k : Slot) (span request iMin : Nat) :
    (s.acceptRaise k span request iMin).setup = s.setup := by
  unfold State.acceptRaise
  split <;> rfl

@[simp] theorem State.setup_overdrawCheck (f : Feed) (b : Breaker) (output : Nat) :
    (s.overdrawCheck f b output).setup = s.setup := by
  dsimp only [State.overdrawCheck]
  split
  · split <;> simp
  · rfl

@[simp] theorem State.setup_takeReport (f : Feed) (volts capacity : Nat) (b : Breaker) (output : Nat) :
    (s.takeReport f volts capacity b output).setup = s.setup := by
  unfold State.takeReport
  cases b with
  | closed => simp
  | opened => simp [apply_ite State.setup]

@[simp] theorem State.setup_purgeSpan (i : Nat) : (s.purgeSpan i).setup = s.setup :=
  List.foldlRecOn _ _ (motive := fun t : State => t.setup = s.setup) rfl fun t kept _ _ => (t.setup_expel _ _).trans kept

@[simp] theorem State.setup_applyBar (a b : Nat) : (s.applyBar a b).setup = s.setup := by
  have barred := (State.barSpan_fold (spanRange a b) s).2
  refine List.foldlRecOn _ _ (motive := fun t : State => t.setup = s.setup) ?_
    fun t kept i _ => (t.setup_purgeSpan i).trans kept
  rw [barred]
  rfl

@[simp] theorem State.setup_openSpans (a b : Nat) : (s.openSpans a b).setup = s.setup := by
  rw [(s.openSpans_spec a b).2]; rfl

@[simp] theorem State.setup_createPhantom (i v : Nat) : (s.createPhantom i v).setup = s.setup := by
  unfold State.createPhantom
  split <;> simp [State.overflowed]

@[simp] theorem State.setup_unmatched (n j v : Nat) : (s.unmatched n j v).setup = s.setup :=
  State.setup_createPhantom _ _ _

@[simp] theorem State.setup_leaveWire (e : Entry) : (s.leaveWire e).setup = s.setup := by
  unfold State.leaveWire
  cases e.kind <;> simp

@[simp] theorem State.setup_moveUp (e : Entry) (v : Nat) : (s.moveUp e v).setup = s.setup := by
  unfold State.moveUp
  cases e.kind with
  | phantom => simp
  | truck k => dsimp only; split <;> simp

@[simp] theorem State.setup_takePass (j width : Nat) (overlong : Bool) : (s.takePass j width overlong).setup = s.setup := by
  unfold State.takePass
  split
  · rfl
  · split
    · rfl
    · dsimp only
      split
      · simp
      · split <;> simp

@[simp] theorem State.setup_updateEntry (r : EntryRef) (f : Entry → Entry) : (s.updateEntry r f).setup = s.setup := rfl

@[simp] theorem State.setup_applyGrant (k : Slot) (span amount : Nat) : (s.applyGrant k span amount).setup = s.setup := rfl

@[simp] theorem State.setup_applyResult (r : SnapEntry × Nat) : (s.applyResult r).setup = s.setup := by
  unfold State.applyResult
  split
  · split <;> simp
  · rfl

theorem State.setup_applyResults (l : List (SnapEntry × Nat)) : (l.foldl State.applyResult s).setup = s.setup :=
  List.foldlRecOn _ _ (motive := fun t : State => t.setup = s.setup) rfl
    fun t kept r _ => (t.setup_applyResult r).trans kept

@[simp] theorem State.setup_clearAllCounters : s.clearAllCounters.setup = s.setup := rfl

/-- A commit ends the computation in flight and keeps the rest of the setup. -/
theorem State.setup_commitOf (x : Snapshot) : (s.commitOf x).setup = { s with inFlight := none : State }.setup := by
  rw [← State.setup_applyResults { s with inFlight := none } (List.zip x.entries x.heldOrTargets)]
  unfold State.commitOf
  dsimp only
  generalize List.foldl State.applyResult _ _ = u
  cases x.grant with
  | none => rfl
  | some g => dsimp only; split <;> rfl

end KeepSetup


/-! ### The rules of the requests -/

section Rules
variable (s : State)

/-- Whether its port hears it or not, a request leaves the setup as its rule does. -/
theorem State.request_setup {s : State} {rule : State → State × Answer} (p : Port)
    (kept : (rule s).1.setup = s.setup) : (s.request p rule).setup = s.setup := by
  unfold State.request
  split
  · exact (State.setup_send _ _ _).trans kept
  · split
    · exact s.setup_setPort p _
    · rfl

theorem joinRule_setup (fleet : U16) : (joinRule fleet s).1.setup = s.setup := by
  unfold joinRule
  split
  · rfl
  · split
    · simp
    · split <;> rfl

theorem statusRule_setup (slot : Byte) (fleet : U16) (panto : Byte) (inForce measured wanted : U16) :
    (statusRule slot fleet panto inForce measured wanted s).1.setup = s.setup := by
  unfold statusRule
  split
  · rfl
  · by_cases down : pantoOf panto = .down <;> simp [down]

theorem raiseRule_setup (slot : Byte) (fleet : U16) (span : Byte) (request iMin : U16) :
    (raiseRule slot fleet span request iMin s).1.setup = s.setup := by
  unfold raiseRule
  split
  · rfl
  · dsimp only
    split <;> simp

theorem cancelRule_setup (slot : Byte) (fleet : U16) : (cancelRule slot fleet s).1.setup = s.setup := by
  unfold cancelRule
  split
  · rfl
  · dsimp only
    split <;> simp

theorem leaveRule_setup (slot : Byte) (fleet : U16) : (leaveRule slot fleet s).1.setup = s.setup := by
  unfold leaveRule
  split
  · rfl
  · dsimp only
    split <;> simp

theorem feedReportRule_setup (f : Feed) (ident : Byte) (volts capacity : U16) (breaker : Byte) (output : U16) :
    (feedReportRule f ident volts capacity breaker output s).1.setup = s.setup := by
  unfold feedReportRule
  split <;> simp

theorem isoFromRule_setup (a : Byte) : (isoFromRule a s).1.setup = s.setup := by
  unfold isoFromRule
  split <;> rfl

theorem isoToRule_setup (b : Byte) : (isoToRule b s).1.setup = s.setup := by
  unfold isoToRule
  split
  · rfl
  · split
    · split <;> rfl
    · rfl

theorem isoApplyRule_setup : (isoApplyRule s).1.setup = s.setup := by
  unfold isoApplyRule
  split
  · exact s.setup_applyBar _ _
  · rfl

theorem restoreRule_setup (a b : Byte) (flag : Bool) : (restoreRule a b flag s).1.setup = s.setup := by
  unfold restoreRule
  split
  · exact s.setup_openSpans _ _
  · rfl

theorem clearPhantomRule_setup (number : Byte) (flag : Bool) : (clearPhantomRule number flag s).1.setup = s.setup := by
  rw [clearPhantomRule_eq]
  split
  · exact s.setup_removeEntries _
  · rfl

theorem evictRule_setup (slot : Byte) (flag : Bool) : (evictRule slot flag s).1.setup = s.setup := by
  unfold evictRule
  split
  · rfl
  · split <;> simp

theorem querySectionRule_setup (part : Byte) : (querySectionRule part s).1.setup = s.setup := by
  unfold querySectionRule
  split <;> rfl

end Rules

/-! ### What a received byte leaves -/

/-- A port record whose error counters stand, or are raised (R161). -/
def PortState.CountsOn (x y : PortState) : Prop :=
  (y.checkErrors = x.checkErrors ∨ y.checkErrors = raised x.checkErrors) ∧
    (y.unknownKinds = x.unknownKinds ∨ y.unknownKinds = raised x.unknownKinds)

theorem PortState.countsOn_of_eq {x y : PortState} (check : y.checkErrors = x.checkErrors)
    (unknown : y.unknownKinds = x.unknownKinds) : x.CountsOn y := ⟨.inl check, .inl unknown⟩

theorem PortState.countsOn_discard (x : PortState) : x.CountsOn x.discard := ⟨.inr rfl, .inl rfl⟩

theorem PortState.countsOn_discardKind (x : PortState) : x.CountsOn x.discardKind := ⟨.inl rfl, .inr rfl⟩

/-- A command of a port's receiver writes that port alone, or completes a request frame on it. -/
inductive State.Received (s : State) (p : Port) : State → Prop
  | port (x : PortState) (counts : (s.port p).CountsOn x) : s.Received p (s.setPort p x)
  | request (i : Instr) (k : ReqKind) (payload : List Byte) (x : PortState)
    (parts : requestParts i = some (p, k, payload)) (counts : (s.port p).CountsOn x) :
    s.Received p ((s.setPort p x).takeRequest i)

section Receiving
variable (s : State) (p : Port)

theorem State.received_self : s.Received p s := by
  have port := State.Received.port (s.port p) (PortState.countsOn_of_eq rfl rfl)
  rwa [s.setPort_port p] at port

theorem State.received_discardFrame : s.Received p (s.discardFrame p) := .port _ (PortState.countsOn_discard _)

theorem State.received_discardKind : s.Received p (s.discardKind p) := .port _ (PortState.countsOn_discardKind _)

theorem State.completeFrame_received (kind : Byte) (payload : List Byte) (check : U16) :
    s.Received p (s.completeFrame p kind payload check) := by
  unfold State.completeFrame
  split
  · exact s.received_discardFrame p
  · exact s.received_discardKind p
  · exact s.received_discardFrame p
  · next i taken =>
    obtain ⟨-, k, -, parts⟩ := requestParts_of_examine taken
    exact .request i k payload _ parts (PortState.countsOn_of_eq rfl rfl)

theorem State.takeByte_received (b : Byte) : s.Received p (s.takeByte p b) := by
  have moved (rx : Rx) : s.Received p (s.setPort p { s.port p with rx := rx }) :=
    .port _ (PortState.countsOn_of_eq rfl rfl)
  unfold State.takeByte
  dsimp only
  split
  · split
    · exact moved _
    · exact s.received_self p
  · exact moved _
  · split
    · exact moved _
    · exact s.received_discardFrame p
  · split
    · exact moved _
    · exact s.completeFrame_received p _ _ _

theorem PortState.countsOn_loseByte (x : PortState) (now : Time) (b : RxByte) : x.CountsOn (x.loseByte now b) := by
  rw [PortState.loseByte_frame]
  exact PortState.countsOn_of_eq rfl rfl

theorem exec_frameStart_received (b : RxByte) :
    ∃ t, exec (.frameStart p b) s = .next t ∧ s.Received p t := by
  refine ⟨_, rfl, ?_⟩
  split
  · split
    · exact s.takeByte_received p _
    · split
      · exact s.received_self p
      · exact s.received_discardFrame p
  · split
    · exact .port _ (PortState.countsOn_loseByte _ _ _)
    · exact s.received_self p

theorem exec_frameDiscarded_port (w : Discard) :
    ∃ x, (s.port p).CountsOn x ∧ exec (.frameDiscarded p w) s = .next (s.setPort p x) := by
  have discard : ∃ x, (s.port p).CountsOn x ∧ s.discardFrame p = s.setPort p x :=
    ⟨_, PortState.countsOn_discard _, rfl⟩
  have unknown : ∃ x, (s.port p).CountsOn x ∧ s.discardKind p = s.setPort p x :=
    ⟨_, PortState.countsOn_discardKind _, rfl⟩
  have same : ∃ x, (s.port p).CountsOn x ∧ s = s.setPort p x :=
    ⟨_, PortState.countsOn_of_eq rfl rfl, (s.setPort_port p).symm⟩
  suffices h : ∃ x, (s.port p).CountsOn x ∧ _ = s.setPort p x from
    h.imp fun x ⟨counts, eq⟩ => ⟨counts, congrArg Host.Outcome.next eq⟩
  split
  · cases w with
    | complete kind payload check => dsimp only; split <;> assumption
    | lengthByte value => dsimp only; split <;> assumption
    | missingStop => dsimp only; split <;> assumption
  · exact same

theorem exec_frameTimeout_port :
    ∃ x, (s.port p).CountsOn x ∧ exec (.frameTimeout p) s = .next (s.setPort p x) := by
  suffices h : ∃ x, (s.port p).CountsOn x ∧ _ = s.setPort p x from
    h.imp fun x ⟨counts, eq⟩ => ⟨counts, congrArg Host.Outcome.next eq⟩
  split
  · exact ⟨_, PortState.countsOn_discard _, rfl⟩
  · split
    · exact ⟨(s.port p).countLost, ⟨.inr rfl, .inl rfl⟩, rfl⟩
    · exact ⟨_, PortState.countsOn_of_eq rfl rfl, (s.setPort_port p).symm⟩

theorem exec_answerSent_port :
    ∃ x, (s.port p).CountsOn x ∧ exec (.answerSent p) s = .next (s.setPort p x) :=
  ⟨{ s.port p with tx := none, lostRx := .hunt }, PortState.countsOn_of_eq rfl rfl, rfl⟩

end Receiving

/-- A request handed over by its port's receiver acts as the request itself. -/
theorem exec_of_takeRequest {i : Instr} (s : State) (request : (requestParts i).isSome = true) :
    exec i s = .next (s.takeRequest i) := by
  cases i <;> first | rfl | exact absurd request Bool.false_ne_true

/-! ### The commands that keep the setup -/

/-- The commands that write the clock, an input, the configuration or its store, the section state or the cycle, and the
byte received, which may complete one of them. -/
def writesSetup : Instr → Bool
  | .setSpan .. | .setSpanCount _ | .setParam .. | .store | .run | .stop | .coldReset | .coldResetEnd | .warmRstNAssert
  | .warmResetEnd | .warmResetAfterAck | .storeWriteEnd _ | .detectorRise _ | .detectorFall _ | .cycleDeadline | .commit
  | .frameStart .. => true
  | _ => false

section Events
variable (s : State)

theorem exec_blankingDeadline_setup (j : Joint) : ∃ t, exec (.blankingDeadline j) s = .next t ∧ t.setup = s.setup := by
  refine ⟨_, rfl, ?_⟩
  dsimp only
  split
  · split
    · rfl
    · split <;> simp
  · rfl

theorem exec_overlongDeadline_setup (j : Joint) : ∃ t, exec (.overlongDeadline j) s = .next t ∧ t.setup = s.setup := by
  refine ⟨_, rfl, ?_⟩
  dsimp only
  split
  · split <;> simp
  · rfl

theorem exec_nextJointDeadline_setup (r : EntryRef) :
    ∃ t, exec (.nextJointDeadline r) s = .next t ∧ t.setup = s.setup := by
  refine ⟨_, rfl, ?_⟩
  split
  · rfl
  · split <;> rfl

theorem exec_lostDeadline_setup (r : EntryRef) : ∃ t, exec (.lostDeadline r) s = .next t ∧ t.setup = s.setup := by
  refine ⟨_, rfl, ?_⟩
  split
  · rfl
  · split
    · cases r with
      | truck k => exact State.setup_lowerOrder _ k
      | phantom n => rfl
    · rfl

theorem exec_phantomExpiry_setup (n : PhantomNo) : ∃ t, exec (.phantomExpiry n) s = .next t ∧ t.setup = s.setup := by
  refine ⟨_, rfl, ?_⟩
  split
  · rfl
  · split
    · exact s.setup_removeEntries _
    · rfl

/-- Every command but the writers keeps the setup. -/
theorem exec_setup {c : Instr} (other : writesSetup c = false) :
    ∃ t, exec c s = .next t ∧ t.setup = s.setup := by
  have ported {p : Port} {c : Instr} (h : ∃ x, (s.port p).CountsOn x ∧ exec c s = .next (s.setPort p x)) :
      ∃ t, exec c s = .next t ∧ t.setup = s.setup :=
    h.elim fun x ⟨_, next⟩ => ⟨_, next, s.setup_setPort p x⟩
  cases c with
  | join f => exact ⟨_, rfl, State.request_setup _ (joinRule_setup s f)⟩
  | status n f u i m w => exact ⟨_, rfl, State.request_setup _ (statusRule_setup s n f u i m w)⟩
  | raise n f x r i => exact ⟨_, rfl, State.request_setup _ (raiseRule_setup s n f x r i)⟩
  | cancel n f => exact ⟨_, rfl, State.request_setup _ (cancelRule_setup s n f)⟩
  | leave n f => exact ⟨_, rfl, State.request_setup _ (leaveRule_setup s n f)⟩
  | feedReport f i v c b o => exact ⟨_, rfl, State.request_setup _ (feedReportRule_setup s f i v c b o)⟩
  | shed f c => exact ⟨_, rfl, State.request_setup _ (s.setup_setSide f _)⟩
  | shedRelease f => exact ⟨_, rfl, State.request_setup _ (s.setup_setSide f _)⟩
  | isoFrom a => exact ⟨_, rfl, State.request_setup _ (isoFromRule_setup s a)⟩
  | isoTo b => exact ⟨_, rfl, State.request_setup _ (isoToRule_setup s b)⟩
  | isoApply => exact ⟨_, rfl, State.request_setup _ (isoApplyRule_setup s)⟩
  | restore a b => exact ⟨_, rfl, State.request_setup _ (restoreRule_setup _ a b _)⟩
  | clearFaults => exact ⟨_, rfl, State.request_setup _ rfl⟩
  | clearPhantom n => exact ⟨_, rfl, State.request_setup _ (clearPhantomRule_setup _ n _)⟩
  | evict n => exact ⟨_, rfl, State.request_setup _ (evictRule_setup _ n _)⟩
  | clearCounters => exact ⟨_, rfl, State.request_setup _ rfl⟩
  | warmReset => exact ⟨_, rfl, State.request_setup _ rfl⟩
  | querySection n => exact ⟨_, rfl, State.request_setup _ (querySectionRule_setup s n)⟩
  | queryTrucks n => exact ⟨_, rfl, State.request_setup _ rfl⟩
  | queryLine n => exact ⟨_, rfl, State.request_setup _ rfl⟩
  | queryFeeds n => exact ⟨_, rfl, State.request_setup _ rfl⟩
  | querySpans n => exact ⟨_, rfl, State.request_setup _ rfl⟩
  | queryGrants n => exact ⟨_, rfl, State.request_setup _ rfl⟩
  | frameDiscarded p w => exact ported (exec_frameDiscarded_port s p w)
  | frameTimeout p => exact ported (exec_frameTimeout_port s p)
  | answerSent p => exact ported (exec_answerSent_port s p)
  | blankingDeadline j => exact exec_blankingDeadline_setup s j
  | overlongDeadline j => exact exec_overlongDeadline_setup s j
  | feedLateDeadline f => exact ⟨_, rfl, by simp [apply_ite State.setup]⟩
  | feedOutDeadline f => exact ⟨_, rfl, by simp [apply_ite State.setup]⟩
  | shedDeadline f => exact ⟨_, rfl, by simp [apply_ite State.setup]⟩
  | idleDeadline k => exact ⟨_, rfl, by simp [apply_ite State.setup]⟩
  | holdoffExpiry k => exact ⟨_, rfl, by simp [apply_ite State.setup]⟩
  | raiseConfirmDeadline k => exact ⟨_, rfl, by simp [apply_ite State.setup]⟩
  | lowerConfirmDeadline k => exact ⟨_, rfl, by simp [apply_ite State.setup]⟩
  | cutAcknowledgeDeadline k => exact ⟨_, rfl, by simp [apply_ite State.setup]⟩
  | silenceDeadline k => exact ⟨_, rfl, by simp [apply_ite State.setup]⟩
  | silentHoldDeadline k => exact ⟨_, rfl, by simp [apply_ite State.setup]⟩
  | queueWaitDeadline k => exact ⟨_, rfl, by simp [apply_ite State.setup]⟩
  | spacingDeadline => exact ⟨_, rfl, by split <;> rfl⟩
  | nextJointDeadline r => exact exec_nextJointDeadline_setup s r
  | lostDeadline r => exact exec_lostDeadline_setup s r
  | phantomExpiry n => exact exec_phantomExpiry_setup s n
  | _ => exact nomatch other

end Events

/-! ### Every command completes -/

/-- The fields that O2 speaks of, but for the time base: what no command writes, and the inputs. -/
structure Clockwork where
  pending : List Instr
  choice : Nat
  now : Time
  det : Vector Bool 17

def State.clockwork (s : State) : Clockwork := ⟨s.pending, s.choice, s.now, s.det⟩

theorem State.clockwork_of_setup {s t : State} (setup : t.setup = s.setup) : t.clockwork = s.clockwork :=
  congrArg (fun x : Setup => Clockwork.mk x.pending x.choice x.now x.det) setup

section Complete
variable {s : State}

theorem State.request_clockwork {rule : State → State × Answer} (p : Port)
    (kept : (rule s).1.clockwork = s.clockwork) : (s.request p rule).clockwork = s.clockwork := by
  have sent (u : State) (x : PortState) : (u.setPort p x).clockwork = u.clockwork :=
    State.clockwork_of_setup (u.setup_setPort p x)
  unfold State.request
  split
  · exact (sent _ _).trans kept
  · split
    · exact sent _ _
    · rfl

/-- The requests that write the configuration or the section state leave the clock and the inputs. -/
theorem exec_request_clockwork {c : Instr} (request : (requestParts c).isSome = true) :
    ∃ t, exec c s = .next t ∧ t.clockwork = s.clockwork := by
  by_cases writes : writesSetup c = true
  · cases c with
    | setSpan i l r =>
      refine ⟨_, rfl, State.request_clockwork _ ?_⟩
      unfold State.abandoning setSpanRule
      split
      · rfl
      · split <;> rfl
    | setSpanCount n =>
      refine ⟨_, rfl, State.request_clockwork _ ?_⟩
      unfold State.abandoning setSpanCountRule
      split <;> rfl
    | setParam n v =>
      refine ⟨_, rfl, State.request_clockwork _ ?_⟩
      unfold State.abandoning setParamRule
      split
      · rfl
      · split <;> rfl
    | store =>
      refine ⟨_, rfl, State.request_clockwork _ ?_⟩
      unfold State.abandoning storeRule
      split
      · rfl
      · split <;> rfl
    | run =>
      refine ⟨_, rfl, State.request_clockwork _ ?_⟩
      unfold State.abandoning runRule
      split <;> rfl
    | stop =>
      refine ⟨_, rfl, State.request_clockwork _ ?_⟩
      unfold State.abandoning stopRule
      split
      · rw [(State.stopTrucks_spec _).2]
        rfl
      · rfl
    | _ => first | exact absurd writes Bool.false_ne_true | exact absurd request Bool.false_ne_true
  · obtain ⟨t, next, setup⟩ := exec_setup s (Bool.eq_false_iff.2 writes)
    exact ⟨t, next, State.clockwork_of_setup setup⟩

theorem State.clockwork_channels (s : State) (c : Vector Channel 17) :
    ({ s with channels := c } : State).clockwork = s.clockwork := rfl

theorem State.clockwork_spanStates (s : State) (x : Vector SpanState 16) :
    ({ s with spanStates := x } : State).clockwork = s.clockwork := rfl

theorem State.inputsRise_clockwork (s : State) : s.inputsRise.clockwork = s.clockwork := by
  exact (congrArg State.clockwork s.inputsRise_spec.2).trans (s.clockwork_channels _)

theorem State.clearDynamic_clockwork (s : State) (hold : Bool) :
    ({ s.clearDynamic with warmHold := hold } : State).clockwork = s.clockwork := rfl

theorem State.loadStored_clockwork (s : State) : s.loadStored.clockwork = s.clockwork := by
  unfold State.loadStored
  split <;> rfl

theorem State.endCold_clockwork (s : State) : s.endCold.clockwork = s.clockwork := by
  let u : State := { s.loadStored with
    coldReset := false, store := .idle, spanStates := Vector.replicate 16 .opened }.settleSection
  calc u.inputsRise.clockwork
    _ = u.clockwork := State.inputsRise_clockwork _
    _ = s.loadStored.clockwork := rfl
    _ = s.clockwork := s.loadStored_clockwork

theorem State.endWarm_clockwork (s : State) : s.endWarm.clockwork = s.clockwork := by
  let u : State := { s with warmHold := false }.settleSection
  calc u.settleBars.inputsRise.clockwork
    _ = u.settleBars.clockwork := State.inputsRise_clockwork _
    _ = u.clockwork := (congrArg State.clockwork u.settleBars_spec.2).trans (u.clockwork_spanStates _)
    _ = s.clockwork := rfl

/-- Every command but COLD_RESET and the two edges leaves the clock and the inputs. -/
theorem exec_clockwork {c : Instr} (noReset : c ≠ .coldReset)
    (noEdge : ∀ j, c ≠ .detectorRise j ∧ c ≠ .detectorFall j) :
    ∃ t, exec c s = .next t ∧ t.clockwork = s.clockwork := by
  by_cases writes : writesSetup c = true
  · by_cases request : (requestParts c).isSome = true
    · exact exec_request_clockwork request
    · cases c with
      | coldReset => exact absurd rfl noReset
      | detectorRise j => exact absurd rfl (noEdge j).1
      | detectorFall j => exact absurd rfl (noEdge j).2
      | coldResetEnd =>
        refine ⟨_, rfl, ?_⟩
        split
        · split
          · exact (State.clearDynamic_clockwork _ true).trans s.endCold_clockwork
          · exact s.endCold_clockwork
        · rfl
      | warmRstNAssert =>
        refine ⟨_, rfl, ?_⟩
        split
        · rfl
        · split <;> rfl
      | warmResetEnd =>
        refine ⟨_, rfl, ?_⟩
        split
        · exact (State.endWarm_clockwork { s with warmPin := false }).trans rfl
        · rfl
      | warmResetAfterAck =>
        refine ⟨_, rfl, ?_⟩
        split
        · exact (State.endWarm_clockwork s.clearDynamic).trans (s.clearDynamic_clockwork s.warmHold)
        · rfl
      | storeWriteEnd b =>
        refine ⟨_, rfl, ?_⟩
        split
        · rfl
        · split <;> rfl
      | cycleDeadline =>
        refine ⟨_, rfl, ?_⟩
        split
        · have frame := s.markSnapshot_spec.2
          generalize s.markSnapshot = u at frame
          rw [frame]
          rfl
        · rfl
      | commit =>
        refine ⟨_, rfl, ?_⟩
        split
        · rfl
        · split
          · exact (State.clockwork_of_setup (s.setup_commitOf _)).trans rfl
          · rfl
      | frameStart p b =>
        obtain ⟨t, next, received⟩ := exec_frameStart_received s p b
        refine ⟨t, next, ?_⟩
        cases received with
        | port x => exact State.clockwork_of_setup (s.setup_setPort p x)
        | request i k payload x parts =>
          have isRequest : (requestParts i).isSome = true := by simp [parts]
          obtain ⟨u, taken, kept⟩ := exec_request_clockwork (s := s.setPort p x) isRequest
          obtain rfl : (s.setPort p x).takeRequest i = u :=
            Host.Outcome.next.inj ((exec_of_takeRequest _ isRequest).symm.trans taken)
          exact kept.trans (State.clockwork_of_setup (s.setup_setPort p x))
      | _ => first | exact absurd writes Bool.false_ne_true | exact absurd rfl request
  · obtain ⟨t, next, setup⟩ := exec_setup s (Bool.eq_false_iff.2 writes)
    exact ⟨t, next, State.clockwork_of_setup setup⟩

end Complete

/-- Settles O1: `step` is defined by the front of the queue. -/
theorem stepRunsFrontCommand : Obligations.StepRunsFrontCommand := by
  intro c rest s front
  rw [step, front]

/-- Settles O2: COLD_RESET and the two detector edges write a field of the clock and the inputs each; no other command
writes one. -/
theorem everyCommandCompletes : Obligations.EveryCommandCompletes := by
  intro c s
  by_cases reset : c = .coldReset
  · subst reset
    exact ⟨_, rfl, rfl, rfl, fun other => absurd rfl other, fun _ => rfl⟩
  · by_cases edge : ∃ j, c = .detectorRise j ∨ c = .detectorFall j
    · obtain ⟨j, rfl | rfl⟩ := edge
      · refine ⟨_, rfl, ?_⟩
        refine ⟨?_, ?_, fun _ => ?_, fun none => absurd rfl (none j).1⟩ <;> split <;> rfl
      · refine ⟨_, rfl, ?_⟩
        refine ⟨?_, ?_, fun _ => ?_, fun none => absurd rfl (none j).2⟩ <;> dsimp only <;> split <;> rfl
    · have noEdge (j : Joint) : c ≠ .detectorRise j ∧ c ≠ .detectorFall j :=
        ⟨fun rise => edge ⟨j, .inl rise⟩, fun fall => edge ⟨j, .inr fall⟩⟩
      obtain ⟨t, next, kept⟩ := exec_clockwork (s := s) reset noEdge
      exact ⟨t, next, congrArg Clockwork.pending kept, congrArg Clockwork.choice kept,
        fun _ => congrArg Clockwork.now kept, fun _ => congrArg Clockwork.det kept⟩

end Sys2Proof.Machine

/-! The truck table, the line order and the raise queue in agreement: lists of entries that stand in order, states in which
one slot's record is still to be written, and what each operation of chapters 4 to 6 makes of them. -/

namespace Sys2Proof.Machine

/-! ### Counting entries by name -/

/-- The slot of a truck entry. -/
def Entry.slot? (e : Entry) : Option Slot :=
  match e.kind with
  | .truck k => some k
  | .phantom _ _ _ _ => none

/-- The number of a phantom entry. -/
def Entry.number? (e : Entry) : Option PhantomNo :=
  match e.kind with
  | .truck _ => none
  | .phantom n _ _ _ => some n

theorem Entry.isTruckOf_eq (e : Entry) (k : Slot) : e.isTruckOf k = (e.slot? == some k) := by
  unfold Entry.isTruckOf Entry.slot?
  cases e.kind <;> simp

theorem Entry.isPhantomNo_eq (e : Entry) (n : PhantomNo) : e.isPhantomNo n = (e.number? == some n) := by
  unfold Entry.isPhantomNo Entry.number?
  cases e.kind <;> simp

theorem Entry.isPhantom_eq (e : Entry) : e.isPhantom = e.number?.isSome := by
  unfold Entry.isPhantom Entry.number?
  cases e.kind <;> rfl

/-- An entry is a truck's or a phantom's. -/
theorem Entry.isSome_slot? (e : Entry) : e.slot?.isSome = !e.isPhantom := by
  unfold Entry.isPhantom Entry.slot?
  cases e.kind <;> rfl

/-- The sum of a figure over the names `0` to `n - 1`. -/
def sumOver : {n : Nat} → (Fin n → Nat) → Nat
  | 0, _ => 0
  | _ + 1, f => f 0 + sumOver fun k => f k.succ

theorem sumOver_const (c : Nat) : (n : Nat) → sumOver (fun _ : Fin n => c) = n * c
  | 0 => (Nat.zero_mul c).symm
  | n + 1 => by rw [sumOver, sumOver_const c n, Nat.succ_mul, Nat.add_comm]

theorem sumOver_add : {n : Nat} → (f g : Fin n → Nat) → sumOver (fun k => f k + g k) = sumOver f + sumOver g
  | 0, _, _ => rfl
  | _ + 1, f, g => by
    rw [sumOver, sumOver, sumOver, sumOver_add (fun k => f k.succ) fun k => g k.succ]
    omega

theorem sumOver_le : {n : Nat} → {f g : Fin n → Nat} → (∀ k, f k ≤ g k) → sumOver f ≤ sumOver g
  | 0, _, _, _ => Nat.le_refl 0
  | _ + 1, _, _, below => Nat.add_le_add (below 0) (sumOver_le fun k => below k.succ)

/-- One name among them is `x`. -/
theorem sumOver_single : {n : Nat} → (x : Fin n) → sumOver (fun k => if x = k then 1 else 0) = 1
  | n + 1, x => by
    rw [sumOver]
    cases x using Fin.cases with
    | zero =>
      have others : (fun k : Fin n => if (0 : Fin (n + 1)) = k.succ then 1 else 0) = fun _ => 0 :=
        funext fun k => if_neg (Fin.succ_ne_zero k).symm
      rw [others, sumOver_const, if_pos rfl, Nat.mul_zero]
    | succ x =>
      rw [if_neg (Fin.succ_ne_zero x), Nat.zero_add]
      simp only [Fin.succ_inj]
      exact sumOver_single x

/-- Elements counted name by name. -/
theorem sum_countP_name {α : Type} {n : Nat} (name : α → Option (Fin n)) (l : List α) :
    sumOver (fun k => l.countP fun a => name a == some k) = l.countP fun a => (name a).isSome := by
  induction l with
  | nil => exact sumOver_const 0 n
  | cons a l ih =>
    simp only [List.countP_cons, sumOver_add, ih]
    refine congrArg (l.countP _ + ·) ?_
    cases name a with
    | none => exact (sumOver_const 0 n).trans (Nat.mul_zero n)
    | some x =>
      simp only [Option.some_beq_some, beq_iff_eq, Option.isSome_some, if_true]
      exact sumOver_single x

theorem phantomsIn_eq_sum (l : List Entry) : phantomsIn l = sumOver fun n => l.countP fun e => e.isPhantomNo n := by
  simp only [phantomsIn, Entry.isPhantomNo_eq, sum_countP_name Entry.number?, funext Entry.isPhantom_eq]

theorem trucksIn_eq_sum (l : List Entry) :
    l.countP (fun e => !e.isPhantom) = sumOver fun k => l.countP fun e => e.isTruckOf k := by
  simp only [Entry.isTruckOf_eq, sum_countP_name Entry.slot?, Entry.isSome_slot?]

theorem queue_length_eq_sum (q : List QueueEntry) : q.length = sumOver fun k => q.countP fun e => e.slot == k := by
  have named := sum_countP_name (fun e : QueueEntry => some e.slot) q
  simp only [Option.some_beq_some, Option.isSome_some, List.countP_true] at named
  exact named.symm

/-! ### Line orders (R80, R81) -/

/-- A line order: no span above that of an entry ahead, at most four phantoms, no phantom number twice. -/
structure LineFits (l : List Entry) : Prop where
  order : l.Pairwise fun a b => b.span ≤ a.span
  room : phantomsIn l ≤ 4
  once : ∀ n, l.countP (fun e => e.isPhantomNo n) ≤ 1

theorem State.lineInOrder_iff (s : State) : s.LineInOrder ↔ LineFits s.line ∧ s.phantomCount = phantomsIn s.line :=
  ⟨fun ⟨order, room, once, count⟩ => ⟨⟨order, room, once⟩, count⟩,
    fun ⟨⟨order, room, once⟩, count⟩ => ⟨order, room, once, count⟩⟩

theorem LineFits.nil : LineFits [] := ⟨List.Pairwise.nil, Nat.zero_le _, fun _ => Nat.zero_le _⟩

theorem LineFits.sublist {l m : List Entry} (fits : LineFits m) (sub : l.Sublist m) : LineFits l :=
  ⟨fits.order.sublist sub, Nat.le_trans sub.countP_le fits.room, fun n => Nat.le_trans sub.countP_le (fits.once n)⟩

/-- A change of entries in their places that keeps the span and the name of each. -/
theorem LineFits.map {l : List Entry} (fits : LineFits l) (f : Entry → Entry) (span : ∀ e, (f e).span = e.span)
    (number : ∀ e, (f e).number? = e.number?) : LineFits (l.map f) := by
  refine ⟨?_, ?_, fun n => ?_⟩
  · simpa only [List.pairwise_map, span] using fits.order
  · have same : Entry.isPhantom ∘ f = Entry.isPhantom := by
      funext e
      simp only [Function.comp, Entry.isPhantom_eq, number]
    rw [phantomsIn, List.countP_map, same]
    exact fits.room
  · have same : (fun e => Entry.isPhantomNo e n) ∘ f = fun e => Entry.isPhantomNo e n := by
      funext e
      simp only [Function.comp, Entry.isPhantomNo_eq, number]
    rw [List.countP_map, same]
    exact fits.once n

theorem countP_map_slot (l : List Entry) (f : Entry → Entry) (slot : ∀ e, (f e).slot? = e.slot?) (k : Slot) :
    (l.map f).countP (fun e => e.isTruckOf k) = l.countP fun e => e.isTruckOf k := by
  rw [List.countP_map]
  congr 1
  funext e
  simp only [Function.comp, Entry.isTruckOf_eq, slot]

theorem countP_insertEntry (p : Entry → Bool) (e : Entry) (l : List Entry) :
    (insertEntry e l).countP p = l.countP p + if p e then 1 else 0 := by
  induction l with
  | nil => simp [insertEntry, List.countP_cons]
  | cons a l ih =>
    unfold insertEntry
    split
    · rw [List.countP_cons]
    · rw [List.countP_cons, ih, List.countP_cons]
      omega

theorem mem_insertEntry {x e : Entry} {l : List Entry} : x ∈ insertEntry e l ↔ x = e ∨ x ∈ l := by
  induction l with
  | nil => simp [insertEntry]
  | cons a l ih =>
    unfold insertEntry
    split
    · simp
    · rw [List.mem_cons, ih, List.mem_cons, or_left_comm]

theorem pairwise_insertEntry (e : Entry) {l : List Entry} (order : l.Pairwise fun a b => b.span ≤ a.span) :
    (insertEntry e l).Pairwise fun a b => b.span ≤ a.span := by
  induction l with
  | nil => simp [insertEntry]
  | cons a l ih =>
    obtain ⟨first, rest⟩ := List.pairwise_cons.1 order
    unfold insertEntry
    split
    next lower =>
      refine List.pairwise_cons.2 ⟨fun b mem => ?_, order⟩
      rcases List.mem_cons.1 mem with rfl | mem
      · omega
      · have := first b mem
        omega
    next notLower =>
      refine List.pairwise_cons.2 ⟨fun b mem => ?_, ih rest⟩
      rcases mem_insertEntry.1 mem with rfl | mem
      · omega
      · exact first b mem

theorem LineFits.insert_truck {l : List Entry} (fits : LineFits l) {e : Entry} {k : Slot} (kind : e.kind = .truck k) :
    LineFits (insertEntry e l) := by
  refine ⟨pairwise_insertEntry e fits.order, ?_, fun n => ?_⟩
  · rw [phantomsIn, countP_insertEntry]
    simpa [Entry.isPhantom, kind] using (show l.countP Entry.isPhantom ≤ 4 from fits.room)
  · rw [countP_insertEntry]
    simpa [Entry.isPhantomNo, kind] using fits.once n

theorem LineFits.insert_phantom {l : List Entry} (fits : LineFits l) (free : phantomsIn l < 4) {e : Entry} {n : PhantomNo}
    (number : e.number? = some n) (unused : l.countP (fun e => e.isPhantomNo n) = 0) : LineFits (insertEntry e l) := by
  refine ⟨pairwise_insertEntry e fits.order, ?_, fun m => ?_⟩
  · rw [phantomsIn, countP_insertEntry]
    have : phantomsIn l = l.countP Entry.isPhantom := rfl
    split <;> omega
  · rw [countP_insertEntry, Entry.isPhantomNo_eq, number]
    have := fits.once m
    by_cases same : n = m
    · subst same
      simp [unused]
    · simp [same, this]

/-- With fewer than four phantoms, none twice by number, the lowest free number is indeed free (R80). -/
theorem lowestFreePhantom_unused {l : List Entry} (free : phantomsIn l < 4) :
    l.countP (fun e => e.isPhantomNo (lowestFreePhantom l)) = 0 := by
  rw [List.countP_eq_zero]
  intro e mem
  cases found : allPhantomNos.find? fun n => !l.any fun e => e.isPhantomNo n with
  | some n =>
    have notAny : ∀ x ∈ l, x.isPhantomNo n = false := by simpa using List.find?_some found
    have lowest : lowestFreePhantom l = n := by rw [lowestFreePhantom, found, Option.getD_some]
    rw [lowest]
    simpa using notAny e mem
  | none =>
    exfalso
    have used (n : PhantomNo) : 1 ≤ l.countP fun e => e.isPhantomNo n := by
      have := List.find?_eq_none.1 found n (mem_allPhantomNos n)
      rw [Nat.one_le_iff_ne_zero, Nat.ne_zero_iff_zero_lt, List.countP_pos_iff]
      simpa using this
    have four : 4 ≤ phantomsIn l := by
      rw [phantomsIn_eq_sum]
      exact Nat.le_trans (Nat.le_of_eq (sumOver_const 1 4).symm) (sumOver_le used)
    omega

/-! ### Conversion in place (R83) -/

theorem countP_toPhantom_truck (l : List Entry) (k j : Slot) (n : PhantomNo) (c : Nat) (x : Time)
    (o : Option (Slot × U16)) :
    (l.map (Entry.toPhantom k n c x o)).countP (fun e => e.isTruckOf j) =
      if j = k then 0 else l.countP fun e => e.isTruckOf j := by
  rw [List.countP_map]
  by_cases same : j = k
  · subst same
    rw [if_pos rfl, List.countP_eq_zero]
    intro e _
    unfold Function.comp Entry.toPhantom
    by_cases own : e.isTruckOf j = true
    · rw [if_pos own]
      simp [Entry.isTruckOf]
    · rw [if_neg own]
      exact own
  · rw [if_neg same]
    congr 1
    funext e
    unfold Function.comp Entry.toPhantom
    by_cases own : e.isTruckOf k = true
    · have other : e.isTruckOf j = false := by
        rw [Entry.isTruckOf_eq] at own ⊢
        simp only [beq_iff_eq] at own
        simp [own, Ne.symm same]
      rw [if_pos own, other]
      rfl
    · rw [if_neg own]

/-- Each of the slot's entries becomes a phantom with the number. -/
theorem countP_toPhantom_number (l : List Entry) (k : Slot) (n m : PhantomNo) (c : Nat) (x : Time)
    (o : Option (Slot × U16)) :
    (l.map (Entry.toPhantom k n c x o)).countP (fun e => e.isPhantomNo m) =
      l.countP (fun e => e.isPhantomNo m) + if m = n then l.countP fun e => e.isTruckOf k else 0 := by
  induction l with
  | nil => simp
  | cons e l ih =>
    rw [List.map_cons, List.countP_cons, ih, List.countP_cons, List.countP_cons]
    by_cases own : e.isTruckOf k = true
    · have notPhantom : e.isPhantomNo m = false := by
        unfold Entry.isTruckOf at own
        unfold Entry.isPhantomNo
        cases kind : e.kind <;> simp_all
      have named : (Entry.toPhantom k n c x o e).isPhantomNo m = (n == m) := by
        simp [Entry.toPhantom, own, Entry.isPhantomNo]
      rw [named, notPhantom, own]
      by_cases same : n = m
      · subst same; simp; omega
      · simp [same, Ne.symm same]
    · rw [Entry.toPhantom, if_neg own]
      simp only [own]
      split <;> split <;> simp_all; omega

theorem LineFits.toPhantom {l : List Entry} (fits : LineFits l) (free : phantomsIn l < 4) {k : Slot}
    (one : l.countP (fun e => e.isTruckOf k) = 1) (c : Nat) (x : Time) (o : Option (Slot × U16)) :
    LineFits (l.map (Entry.toPhantom k (lowestFreePhantom l) c x o)) := by
  have unused := lowestFreePhantom_unused free
  have span (e : Entry) : (Entry.toPhantom k (lowestFreePhantom l) c x o e).span = e.span := by
    unfold Entry.toPhantom
    split <;> rfl
  refine ⟨?_, ?_, fun m => ?_⟩
  · simpa only [List.pairwise_map, span] using fits.order
  · rw [phantomsIn_eq_sum]
    simp only [countP_toPhantom_number, one, sumOver_add, ← phantomsIn_eq_sum, eq_comm (b := lowestFreePhantom l)]
    rw [sumOver_single]
    exact free
  · rw [countP_toPhantom_number, one]
    have := fits.once m
    by_cases same : m = lowestFreePhantom l
    · simp only [same, unused, if_true, Nat.zero_add, Nat.le_refl]
    · rw [if_neg same]
      exact this

/-! ### The foremost entry moved up, or taken off (R95) -/

theorem find_foremost {l : List Entry} {i : Nat} {e : Entry} (found : (l.find? fun x => x.span == i) = some e) :
    ∃ ahead behind, l = ahead ++ e :: behind ∧ e.span = i ∧ ∀ x ∈ ahead, x.span ≠ e.span := by
  obtain ⟨own, ahead, behind, rfl, others⟩ := List.find?_eq_some_iff_append.1 found
  have span : e.span = i := by simpa using own
  exact ⟨ahead, behind, rfl, span, fun x mem => by simpa [span] using others x mem⟩

theorem LineFits.move_up {ahead behind : List Entry} {e e' : Entry} (fits : LineFits (ahead ++ e :: behind))
    (foremost : ∀ x ∈ ahead, x.span ≠ e.span) (span : e'.span = e.span + 1) (number : e'.number? = e.number?) :
    LineFits (ahead ++ e' :: behind) := by
  obtain ⟨order, room, once⟩ := fits
  rw [List.pairwise_append, List.pairwise_cons] at order
  obtain ⟨ordAhead, ⟨above, ordBehind⟩, across⟩ := order
  refine ⟨?_, ?_, fun n => ?_⟩
  · rw [List.pairwise_append, List.pairwise_cons]
    refine ⟨ordAhead, ⟨fun b mem => ?_, ordBehind⟩, fun a memA b memB => ?_⟩
    · have := above b mem
      omega
    · rcases List.mem_cons.1 memB with rfl | memB
      · have := across a memA e (List.mem_cons_self ..)
        have := foremost a memA
        omega
      · exact across a memA b (List.mem_cons_of_mem _ memB)
  · simpa [phantomsIn, List.countP_cons, Entry.isPhantom_eq, number] using room
  · simpa [List.countP_cons, Entry.isPhantomNo_eq, number] using once n

end Sys2Proof.Machine

namespace Sys2Proof.Machine

/-! ### One slot still to be written -/

/-- The slot stands in the line order and in the raise queue as its truck's state `x` asks (R59, R102). -/
def State.PlacedAs (s : State) (k : Slot) (x : TruckState) : Prop :=
  s.line.countP (fun e => e.isTruckOf k) = (if x.inLine then 1 else 0) ∧
    s.queue.countP (fun e => e.slot == k) = (if x = .queued then 1 else 0)

/-- Everything agrees once the truck of slot `k` is in state `x`: what an operation leaves between its writes of the line
order or the queue and that of the record. -/
structure State.PlacesBut (s : State) (k : Slot) (x : TruckState) : Prop where
  own : s.PlacedAs k x
  others : ∀ j, j ≠ k → s.PlacedAs j (s.truck j).state
  fleets : s.FleetsDistinct
  line : LineFits s.line
  count : s.phantomCount = phantomsIn s.line

/-- In neither the line order nor the raise queue. -/
def TruckState.idle (x : TruckState) : Prop := x = .free ∨ x = .standby

theorem State.placesHold_iff (s : State) (k : Slot) : s.PlacesHold ↔ s.PlacesBut k (s.truck k).state := by
  constructor
  · rintro ⟨agree, fleets, inOrder⟩
    obtain ⟨line, count⟩ := s.lineInOrder_iff.1 inOrder
    exact ⟨agree k, fun j _ => agree j, fleets, line, count⟩
  · rintro ⟨own, others, fleets, line, count⟩
    refine ⟨fun j => ?_, fleets, s.lineInOrder_iff.2 ⟨line, count⟩⟩
    by_cases same : j = k
    · subst same
      exact own
    · exact others j same

theorem State.PlacesHold.but {s : State} {k : Slot} {x : TruckState} (holds : s.PlacesHold)
    (state : (s.truck k).state = x) : s.PlacesBut k x := state ▸ (s.placesHold_iff k).1 holds

/-- The two idle states ask for the same places. -/
theorem State.PlacedAs.idle {s : State} {k : Slot} {x y : TruckState} (placed : s.PlacedAs k x) (idleX : x.idle)
    (idleY : y.idle) : s.PlacedAs k y := by
  rcases idleX with rfl | rfl <;> rcases idleY with rfl | rfl <;> exact placed

theorem State.PlacesBut.idle {s : State} {k : Slot} {x y : TruckState} (but : s.PlacesBut k x) (idleX : x.idle)
    (idleY : y.idle) : s.PlacesBut k y := { but with own := but.own.idle idleX idleY }

/-! ### Writing the record -/

section Record
variable {s : State} {k : Slot} {x : TruckState} {t : Truck}

/-- A record written for a slot that stays occupied, under the same fleet number. -/
theorem State.PlacesBut.write (but : s.PlacesBut k x) (state : t.state = x) (fleet : t.fleet = (s.truck k).fleet)
    (wasOccupied : (s.truck k).state ≠ .free) (occupied : x ≠ .free) : (s.setTruck k t).PlacesHold := by
  obtain ⟨own, others, ⟨free, fleets, distinct⟩, line, count⟩ := but
  have other {j : Slot} (ne : j ≠ k) : (s.setTruck k t).truck j = s.truck j := s.truck_setTruck_other ne t
  have holds (j : Slot) (f : U16) : (s.setTruck k t).Holds j f → s.Holds j f := by
    by_cases same : j = k
    · subst same
      simp only [State.Holds, State.truck_setTruck_same, fleet]
      exact fun ⟨_, held⟩ => ⟨wasOccupied, held⟩
    · simp only [State.Holds, other same]
      exact id
  refine (State.placesHold_iff _ k).2 ⟨?_, fun j ne => ?_, ⟨fun j => ?_, fun j => ?_, fun i j f hi hj => ?_⟩, line, count⟩
  · rw [State.truck_setTruck_same, state]
    exact own
  · rw [other ne]
    exact others j ne
  · by_cases same : j = k
    · subst same
      rw [State.truck_setTruck_same, state]
      exact fun isFree => absurd isFree occupied
    · rw [other same]
      exact free j
  · by_cases same : j = k
    · subst same
      rw [State.truck_setTruck_same, fleet]
      exact fun _ => fleets j wasOccupied
    · rw [other same]
      exact fleets j
  · exact distinct i j f (holds i f hi) (holds j f hj)

/-- A slot freed. -/
theorem State.PlacesBut.clear (but : s.PlacesBut k .free) : (s.setTruck k {}).PlacesHold := by
  obtain ⟨own, others, ⟨free, fleets, distinct⟩, line, count⟩ := but
  have other {j : Slot} (ne : j ≠ k) : (s.setTruck k {}).truck j = s.truck j := s.truck_setTruck_other ne {}
  have holds (j : Slot) (f : U16) : (s.setTruck k {}).Holds j f → s.Holds j f := by
    by_cases same : j = k
    · subst same
      simp [State.Holds]
    · simp only [State.Holds, other same]
      exact id
  refine (State.placesHold_iff _ k).2 ⟨?_, fun j ne => ?_, ⟨fun j => ?_, fun j => ?_, fun i j f hi hj => ?_⟩, line, count⟩
  · rw [State.truck_setTruck_same]
    exact own
  · rw [other ne]
    exact others j ne
  · by_cases same : j = k
    · subst same
      rw [State.truck_setTruck_same]
      exact fun _ => rfl
    · rw [other same]
      exact free j
  · by_cases same : j = k
    · subst same
      rw [State.truck_setTruck_same]
      exact fun occupied => absurd rfl occupied
    · rw [other same]
      exact fleets j
  · exact distinct i j f (holds i f hi) (holds j f hj)

/-- A FREE slot given to a truck that holds no slot (R61). -/
theorem State.PlacesBut.enrol {f : U16} (but : s.PlacesBut k .standby) (state : t.state = .standby)
    (fleet : t.fleet = some f) (nonzero : f ≠ 0) (new : ∀ j, ¬s.Holds j f) : (s.setTruck k t).PlacesHold := by
  obtain ⟨own, others, ⟨free, fleets, distinct⟩, line, count⟩ := but
  have other {j : Slot} (ne : j ≠ k) : (s.setTruck k t).truck j = s.truck j := s.truck_setTruck_other ne t
  have holds (j : Slot) (ne : j ≠ k) (g : U16) : (s.setTruck k t).Holds j g → s.Holds j g := by
    simp only [State.Holds, other ne]
    exact id
  have newHolds (g : U16) (h : (s.setTruck k t).Holds k g) : g = f := by
    simp only [State.Holds, State.truck_setTruck_same, fleet, Option.some.injEq] at h
    exact h.2.symm
  refine (State.placesHold_iff _ k).2 ⟨?_, fun j ne => ?_, ⟨fun j => ?_, fun j => ?_, fun i j g hi hj => ?_⟩, line, count⟩
  · rw [State.truck_setTruck_same, state]
    exact own
  · rw [other ne]
    exact others j ne
  · by_cases same : j = k
    · subst same
      rw [State.truck_setTruck_same, state]
      exact nofun
    · rw [other same]
      exact free j
  · by_cases same : j = k
    · subst same
      rw [State.truck_setTruck_same]
      exact fun _ => ⟨f, fleet, nonzero⟩
    · rw [other same]
      exact fleets j
  · by_cases sameI : i = k <;> by_cases sameJ : j = k
    · rw [sameI, sameJ]
    · subst sameI
      exact absurd (newHolds g hi ▸ holds j sameJ g hj) (new j)
    · subst sameJ
      exact absurd (newHolds g hj ▸ holds i sameI g hi) (new i)
    · exact distinct i j g (holds i sameI g hi) (holds j sameJ g hj)

end Record

/-! ### Records written in their places -/

/-- A record that keeps its place: fleet number, line-order state or not, QUEUED or not, and a FREE record whole. -/
structure Truck.SamePlace (t u : Truck) : Prop where
  fleet : u.fleet = t.fleet
  inLine : u.state.inLine = t.state.inLine
  queued : u.state = .queued ↔ t.state = .queued
  free : u.state = .free → t.state = .free
  empty : t.state = .free → t = {} → u = {}

theorem Truck.SamePlace.refl (t : Truck) : t.SamePlace t := ⟨rfl, rfl, Iff.rfl, id, fun _ empty => empty⟩

theorem Truck.SamePlace.trans {t u v : Truck} (a : t.SamePlace u) (b : u.SamePlace v) : t.SamePlace v where
  fleet := b.fleet.trans a.fleet
  inLine := b.inLine.trans a.inLine
  queued := b.queued.trans a.queued
  free := fun free => a.free (b.free free)
  empty := fun free empty => by
    have uEmpty := a.empty free empty
    exact b.empty (by rw [uEmpty]) uEmpty

/-- A record of an occupied slot that keeps its state and fleet number. -/
theorem Truck.samePlace_of_state {t u : Truck} (occupied : t.state ≠ .free) (state : u.state = t.state)
    (fleet : u.fleet = t.fleet) : t.SamePlace u :=
  ⟨fleet, by rw [state], by rw [state], fun free => state ▸ free, fun free => absurd free occupied⟩

/-- A record that goes from one line-order state to another. -/
theorem Truck.samePlace_of_inLine {t u : Truck} (before : t.state.inLine = true) (now : u.state.inLine = true)
    (fleet : u.fleet = t.fleet) : t.SamePlace u := by
  have facts {x : TruckState} (inLine : x.inLine = true) : x ≠ .queued ∧ x ≠ .free := by
    constructor <;> rintro rfl <;> exact absurd inLine Bool.false_ne_true
  exact ⟨fleet, now.trans before.symm, iff_of_false (facts now).1 (facts before).1, fun free => absurd free (facts now).2,
    fun free => absurd free (facts before).2⟩

/-- A state with the same line order, the same slots in the queue, and every record in its place. -/
structure State.SamePlaces (s t : State) : Prop where
  line : t.line = s.line
  count : t.phantomCount = s.phantomCount
  queue : t.queue.map QueueEntry.slot = s.queue.map QueueEntry.slot
  trucks : ∀ k, (s.truck k).SamePlace (t.truck k)

theorem countP_slot_of_map {q r : List QueueEntry} (slots : q.map QueueEntry.slot = r.map QueueEntry.slot) (k : Slot) :
    q.countP (fun e => e.slot == k) = r.countP fun e => e.slot == k := by
  have named (l : List QueueEntry) : l.countP (fun e => e.slot == k) = (l.map QueueEntry.slot).countP (· == k) := by
    rw [List.countP_map]
    rfl
  rw [named, named, slots]

section SamePlaces
variable {s t u : State}

theorem State.SamePlaces.refl (s : State) : s.SamePlaces s := ⟨rfl, rfl, rfl, fun _ => .refl _⟩

theorem State.SamePlaces.trans (a : s.SamePlaces t) (b : t.SamePlaces u) : s.SamePlaces u :=
  ⟨b.line.trans a.line, b.count.trans a.count, b.queue.trans a.queue, fun k => (a.trucks k).trans (b.trucks k)⟩

/-- Nothing that the places speak of is written. -/
theorem State.samePlaces_of_eq (line : t.line = s.line) (count : t.phantomCount = s.phantomCount)
    (queue : t.queue = s.queue) (trucks : t.trucks = s.trucks) : s.SamePlaces t :=
  ⟨line, count, by rw [queue], fun k => by rw [State.truck_def, State.truck_def, trucks]; exact .refl _⟩

theorem State.samePlaces_setTruck {k : Slot} {x : Truck} (same : (s.truck k).SamePlace x) :
    s.SamePlaces (s.setTruck k x) := by
  refine ⟨rfl, rfl, rfl, fun j => ?_⟩
  rw [State.truck_setTruck]
  split
  next eq => exact eq ▸ same
  next => exact .refl _

theorem State.samePlaces_setPort (s : State) (p : Port) (x : PortState) : s.SamePlaces (s.setPort p x) :=
  State.samePlaces_of_eq (s.setPort_line p x) (s.setPort_phantomCount p x) (s.setPort_queue p x) (s.setPort_trucks p x)

theorem State.samePlaces_setSide (s : State) (f : Feed) (x : FeedSide) : s.SamePlaces (s.setSide f x) :=
  State.samePlaces_of_eq (s.setSide_line f x) (s.setSide_phantomCount f x) (s.setSide_queue f x) (s.setSide_trucks f x)

theorem State.samePlaces_setFaults (s : State) (f : FaultFlags) : s.SamePlaces (s.setFaults f) :=
  State.samePlaces_of_eq rfl rfl rfl rfl

theorem State.samePlaces_setEvents (s : State) (e : EventFlags) : s.SamePlaces (s.setEvents e) :=
  State.samePlaces_of_eq rfl rfl rfl rfl

theorem State.SamePlaces.fleets (same : s.SamePlaces t) (fleets : s.FleetsDistinct) : t.FleetsDistinct := by
  obtain ⟨free, occupied, distinct⟩ := fleets
  have wasFree (k : Slot) : (s.truck k).state = .free → (t.truck k).state = .free := fun isFree => by
    rw [(same.trucks k).empty isFree (free k isFree)]
  have holds (k : Slot) (f : U16) : t.Holds k f → s.Holds k f := by
    rintro ⟨state, held⟩
    exact ⟨mt (wasFree k) state, (same.trucks k).fleet ▸ held⟩
  refine ⟨fun k isFree => ?_, fun k isOccupied => ?_, fun j k f hj hk => distinct j k f (holds j f hj) (holds k f hk)⟩
  · have before := (same.trucks k).free isFree
    exact (same.trucks k).empty before (free k before)
  · rw [(same.trucks k).fleet]
    exact occupied k (mt (wasFree k) isOccupied)

theorem State.SamePlaces.placed (same : s.SamePlaces t) {k : Slot} {x y : TruckState} (placed : s.PlacedAs k x)
    (inLine : y.inLine = x.inLine) (queued : y = .queued ↔ x = .queued) : t.PlacedAs k y := by
  obtain ⟨line, queue⟩ := placed
  refine ⟨?_, ?_⟩
  · rw [same.line, line, inLine]
  · rw [countP_slot_of_map same.queue, queue]
    simp only [queued]

theorem State.SamePlaces.but (same : s.SamePlaces t) {k : Slot} {x : TruckState} (but : s.PlacesBut k x) :
    t.PlacesBut k x where
  own := same.placed but.own rfl Iff.rfl
  others := fun j ne => same.placed (but.others j ne) (same.trucks j).inLine (same.trucks j).queued
  fleets := same.fleets but.fleets
  line := same.line ▸ but.line
  count := by rw [same.count, same.line, but.count]

theorem State.SamePlaces.holds (same : s.SamePlaces t) (holds : s.PlacesHold) : t.PlacesHold := by
  have but := same.but ((s.placesHold_iff 0).1 holds)
  exact (t.placesHold_iff 0).2
    { but with own := same.placed (State.PlacesBut.own ((s.placesHold_iff 0).1 holds)) (same.trucks 0).inLine (same.trucks 0).queued }

end SamePlaces

/-! ### Operations that keep the places -/

section Kept
variable {s : State} {k : Slot}

theorem State.takenFrom_samePlaces (occupied : (s.truck k).state ≠ .free) : s.SamePlaces (s.takenFrom k) :=
  State.samePlaces_setTruck (Truck.samePlace_of_state occupied rfl rfl)

theorem State.recordStatus_samePlaces (occupied : (s.truck k).state ≠ .free) (p : Panto) (inForce measured : Nat) :
    s.SamePlaces (s.recordStatus k p inForce measured) :=
  State.samePlaces_setTruck (Truck.samePlace_of_state occupied rfl rfl)

theorem State.setSilence_samePlaces (s : State) (k : Slot) : s.SamePlaces (s.setSilence k) := by
  dsimp only [State.setSilence]
  split
  case h_4 => exact .refl s
  all_goals
    next state => exact State.samePlaces_setTruck (Truck.samePlace_of_state (by rw [state]; exact nofun) rfl rfl)

theorem State.applyWanted_samePlaces (s : State) (k : Slot) (wanted : Nat) : s.SamePlaces (s.applyWanted k wanted) := by
  dsimp only [State.applyWanted]
  split
  case h_3 => exact .refl s
  all_goals
    next state => exact State.samePlaces_setTruck (Truck.samePlace_of_state (by rw [state]; exact nofun) rfl rfl)

theorem State.evaluateCut_samePlaces (s : State) (k : Slot) : s.SamePlaces (s.evaluateCut k) := by
  refine State.samePlaces_setTruck ⟨rfl, rfl, Iff.rfl, id, fun free empty => ?_⟩
  rw [empty]
  rfl

theorem State.limit_samePlaces (s : State) (k : Slot) : s.SamePlaces (s.limit k).1 := by
  refine State.samePlaces_setTruck ⟨rfl, rfl, Iff.rfl, id, fun free empty => ?_⟩
  rw [empty]

theorem State.enterDrawing_samePlaces (inLine : (s.truck k).state.inLine = true) : s.SamePlaces (s.enterDrawing k) :=
  .trans (State.samePlaces_setTruck (x := { s.truck k with
      state := .drawing, throughout := false, raiseConfirm := none, silentHold := none })
    (Truck.samePlace_of_inLine inLine rfl rfl)) (State.evaluateCut_samePlaces _ k)

theorem State.enterSilent_samePlaces (inLine : (s.truck k).state.inLine = true) : s.SamePlaces (s.enterSilent k) :=
  State.samePlaces_setTruck (Truck.samePlace_of_inLine inLine rfl rfl)

theorem State.lowerOrder_samePlaces (s : State) (k : Slot) : s.SamePlaces (s.lowerOrder k) := by
  cases state : (s.truck k).state with
  | raisePending =>
    rw [State.lowerOrder_of_up (.inl state)]
    exact State.samePlaces_setTruck (Truck.samePlace_of_inLine (by rw [state]; rfl) rfl rfl)
  | drawing =>
    rw [State.lowerOrder_of_up (.inr state)]
    exact State.samePlaces_setTruck (Truck.samePlace_of_inLine (by rw [state]; rfl) rfl rfl)
  | silent =>
    rw [State.lowerOrder_of_silent state]
    exact State.samePlaces_setTruck (Truck.samePlace_of_state (by rw [state]; exact nofun) rfl rfl)
  | _ =>
    rw [State.lowerOrder_of_other (by simp [state]) (by simp [state]) (by simp [state])]
    exact .refl s

theorem State.applyTarget_samePlaces (s : State) (k : Slot) (fleet : Option U16) (target : Nat) :
    s.SamePlaces (s.applyTarget k fleet target) := by
  dsimp only [State.applyTarget]
  split
  next drawing =>
    split
    · exact s.lowerOrder_samePlaces k
    · have occupied : (s.truck k).state ≠ .free := by rw [drawing.2.1]; exact nofun
      exact (State.samePlaces_setTruck (x := { s.truck k with issued := target })
        (Truck.samePlace_of_state occupied rfl rfl)).trans (State.evaluateCut_samePlaces _ k)
  next => exact .refl s

theorem State.applyResults_samePlaces (s : State) (l : List (SnapEntry × Nat)) :
    s.SamePlaces (l.foldl State.applyResult s) := by
  refine List.foldlRecOn _ _ (motive := fun t : State => s.SamePlaces t) (.refl s) fun t same r _ => same.trans ?_
  unfold State.applyResult
  split
  · split
    · exact t.applyTarget_samePlaces _ _ _
    · exact .refl t
  · exact .refl t

theorem State.tellEmptied_samePlaces (s : State) (i : Nat) : s.SamePlaces (s.tellEmptied i) := by
  have frame := s.tellEmptied_frame i
  generalize s.tellEmptied i = t at frame
  rw [frame]
  exact State.samePlaces_of_eq rfl rfl rfl rfl

theorem State.spanGained_samePlaces (s : State) (i : Nat) : s.SamePlaces (s.spanGained i) := by
  refine ⟨rfl, rfl, ?_, fun _ => .refl _⟩
  show (s.queue.map (QueueEntry.gained i)).map QueueEntry.slot = _
  rw [List.map_map]
  exact List.map_congr_left fun e _ => QueueEntry.gained_slot i e

theorem State.tellEntered_samePlaces (s : State) (i : Nat) (kind : EntryKind) : s.SamePlaces (s.tellEntered i kind) := by
  unfold State.tellEntered
  split
  · exact .refl s
  · cases kind with
    | phantom => exact s.samePlaces_setFaults _
    | truck k => exact (s.samePlaces_setFaults _).trans (State.lowerOrder_samePlaces _ k)

theorem State.markSnapshot_samePlaces (s : State) : s.SamePlaces s.markSnapshot := by
  obtain ⟨trucks, frame⟩ := s.markSnapshot_spec
  generalize s.markSnapshot = t at trucks frame
  refine ⟨by rw [frame], by rw [frame], ?_, fun k => ?_⟩
  · have queue : t.queue = s.queue.map fun e => { e with altered := false } := by rw [frame]
    rw [queue, List.map_map]
    rfl
  · rw [trucks]
    refine ⟨rfl, rfl, Iff.rfl, id, fun free empty => ?_⟩
    rw [empty]
    rfl

end Kept

end Sys2Proof.Machine

namespace Sys2Proof.Machine

/-! ### Entries removed (R84) -/

section Removed
variable (s : State) (q : Entry → Bool)

@[simp] theorem State.removeEntries_line : (s.removeEntries q).line = s.line.filter fun e => !q e := by
  rw [State.removeEntries_frame]

@[simp] theorem State.removeEntries_phantomCount :
    (s.removeEntries q).phantomCount = phantomsIn (s.line.filter fun e => !q e) := by
  rw [State.removeEntries_frame]

@[simp] theorem State.removeEntries_queue : (s.removeEntries q).queue = s.queue := by
  rw [State.removeEntries_frame]

@[simp] theorem State.removeEntries_trucks : (s.removeEntries q).trucks = s.trucks := by
  rw [State.removeEntries_frame]

@[simp] theorem State.truck_removeEntries (k : Slot) : (s.removeEntries q).truck k = s.truck k := by
  rw [State.truck_def, State.truck_def, State.removeEntries_trucks]

end Removed

theorem State.FleetsDistinct.of_trucks {s t : State} (fleets : s.FleetsDistinct) (trucks : t.trucks = s.trucks) :
    t.FleetsDistinct := by
  have same (k : Slot) : t.truck k = s.truck k := by rw [State.truck_def, State.truck_def, trucks]
  simpa only [State.FleetsDistinct, State.Holds, same] using fleets

section Operations
variable {s : State} {k : Slot} {x y : TruckState}

/-- The line order replaced by one that fits, with the same trucks but for the slot that is still to be written. -/
theorem State.PlacesBut.putLine (but : s.PlacesBut k x) {l : List Entry} (fits : LineFits l)
    (own : l.countP (fun e => e.isTruckOf k) = if y.inLine then 1 else 0) (queued : y = .queued ↔ x = .queued)
    (others : ∀ j, j ≠ k → l.countP (fun e => e.isTruckOf j) = s.line.countP fun e => e.isTruckOf j) :
    (s.putLine l).PlacesBut k y where
  own := ⟨own, by simpa only [queued, State.putLine_queue] using but.own.2⟩
  others := fun j ne => ⟨(others j ne).trans (but.others j ne).1, (but.others j ne).2⟩
  fleets := but.fleets.of_trucks rfl
  line := fits
  count := rfl

/-- The line order replaced by one that fits, with the same trucks. -/
theorem State.PlacesHold.putLine (holds : s.PlacesHold) {l : List Entry} (fits : LineFits l)
    (trucks : ∀ j, l.countP (fun e => e.isTruckOf j) = s.line.countP fun e => e.isTruckOf j) :
    (s.putLine l).PlacesHold := by
  have but := (s.placesHold_iff 0).1 holds
  exact (State.placesHold_iff _ 0).2 (but.putLine fits ((trucks 0).trans but.own.1) Iff.rfl fun j _ => trucks j)

/-- Entries removed are the line order replaced, but for span states. -/
theorem State.removeEntries_samePlaces (s : State) (q : Entry → Bool) :
    (s.putLine (s.line.filter fun e => !q e)).SamePlaces (s.removeEntries q) :=
  State.samePlaces_of_eq (s.removeEntries_line q) (s.removeEntries_phantomCount q) (s.removeEntries_queue q)
    (s.removeEntries_trucks q)

/-- The slot's entry removed: its truck is to be idle. -/
theorem State.PlacesBut.removeTruck (but : s.PlacesBut k x) (inLine : x.inLine = true) (idle : y.idle) :
    (s.removeEntries fun e => e.isTruckOf k).PlacesBut k y := by
  refine (s.removeEntries_samePlaces _).but (but.putLine (but.line.sublist List.filter_sublist) ?_ ?_ fun j ne => ?_)
  · have none : (s.line.filter fun e => !e.isTruckOf k).countP (fun e => e.isTruckOf k) = 0 := by
      simp [List.countP_filter]
    rw [none]
    rcases idle with rfl | rfl <;> rfl
  · rcases idle with rfl | rfl <;> exact iff_of_false nofun (by rintro rfl; exact nomatch inLine)
  · rw [List.countP_filter]
    congr 1
    funext e
    rw [Entry.isTruckOf_eq, Entry.isTruckOf_eq]
    cases e.slot? with
    | none => rfl
    | some i =>
      by_cases own : i = j
      · subst own; simp [ne]
      · simp [own]

/-- Phantoms removed. -/
theorem State.PlacesHold.removePhantoms (holds : s.PlacesHold) {q : Entry → Bool}
    (phantoms : ∀ e, q e = true → e.isPhantom = true) : (s.removeEntries q).PlacesHold := by
  have but := (s.placesHold_iff 0).1 holds
  refine (s.removeEntries_samePlaces q).holds (holds.putLine (but.line.sublist List.filter_sublist) fun j => ?_)
  rw [List.countP_filter]
  congr 1
  funext e
  cases removed : q e with
  | false => simp
  | true =>
    have phantom := phantoms e removed
    unfold Entry.isPhantom at phantom
    unfold Entry.isTruckOf
    cases kind : e.kind <;> simp_all

/-- The slot's queue entry removed: its truck is to be idle. -/
theorem State.PlacesBut.unqueue (but : s.PlacesBut k .queued) (idle : y.idle) : (s.unqueue k).PlacesBut k y where
  own := by
    refine ⟨?_, ?_⟩
    · rcases idle with rfl | rfl <;> exact but.own.1
    · have none : (s.queue.filter fun e => e.slot ≠ k).countP (fun e => e.slot == k) = 0 := by
        simp [List.countP_filter]
      exact none.trans (by rcases idle with rfl | rfl <;> rfl)
  others := fun j ne => by
    refine ⟨(but.others j ne).1, Eq.trans ?_ (but.others j ne).2⟩
    show (s.queue.filter fun e => e.slot ≠ k).countP (fun e => e.slot == j) = _
    rw [List.countP_filter]
    congr 1
    funext e
    by_cases own : e.slot = j
    · simp [own, ne]
    · simp [own]
  fleets := but.fleets.of_trucks rfl
  line := but.line
  count := but.count

/-- The slot's queue entry appended. -/
theorem State.PlacesBut.enqueue (but : s.PlacesBut k x) (idle : x.idle) (span : Nat) (altered : Bool) :
    ({ s with queue := s.queue ++ [⟨k, span, altered⟩] } : State).PlacesBut k .queued where
  own := by
    refine ⟨?_, ?_⟩
    · rcases idle with rfl | rfl <;> exact but.own.1
    · have none : s.queue.countP (fun e => e.slot == k) = 0 := by
        have := but.own.2
        rcases idle with rfl | rfl <;> exact this
      show (s.queue ++ [QueueEntry.mk k span altered]).countP (fun e => e.slot == k) = 1
      simp [List.countP_append, none]
  others := fun j ne => by
    refine ⟨(but.others j ne).1, Eq.trans ?_ (but.others j ne).2⟩
    show (s.queue ++ [QueueEntry.mk k span altered]).countP (fun e => e.slot == j) = _
    simp [List.countP_append, Ne.symm ne]
  fleets := but.fleets.of_trucks rfl
  line := but.line
  count := but.count

/-- The truck's entry converted in its place, or removed with four phantoms standing (R83). -/
theorem State.PlacesBut.convert (but : s.PlacesBut k x) (inLine : x.inLine = true) (idle : y.idle) (current : Nat)
    (origin : Option (Slot × U16)) : (s.convert k current origin).PlacesBut k y := by
  have one : s.line.countP (fun e => e.isTruckOf k) = 1 := by
    rw [but.own.1, if_pos inLine]
  by_cases room : phantomsIn s.line < 4
  · rw [State.convert_of_room room]
    refine but.putLine (but.line.toPhantom room one _ _ _) ?_ ?_ fun j ne => ?_
    · rw [countP_toPhantom_truck, if_pos rfl]
      rcases idle with rfl | rfl <;> rfl
    · rcases idle with rfl | rfl <;> exact iff_of_false nofun (by rintro rfl; exact nomatch inLine)
    · rw [countP_toPhantom_truck, if_neg ne]
  · rw [State.convert_of_full (Nat.le_of_not_lt room)]
    exact (State.samePlaces_setFaults _ _).but (but.removeTruck inLine idle)

theorem Entry.forget_slot? (k : Slot) (e : Entry) : (e.forget k).slot? = e.slot? := by
  unfold Entry.forget
  split
  · next kind => split <;> simp [Entry.slot?, kind]
  · rfl

theorem Entry.forget_number? (k : Slot) (e : Entry) : (e.forget k).number? = e.number? := by
  unfold Entry.forget
  split
  · next kind => split <;> simp [Entry.number?, kind]
  · rfl

theorem Entry.forget_span (k : Slot) (e : Entry) : (e.forget k).span = e.span := by
  unfold Entry.forget
  split
  · split <;> rfl
  · rfl

/-- Entries changed in their places. -/
theorem State.PlacesBut.mapLine (but : s.PlacesBut k x) {f : Entry → Entry} (span : ∀ e, (f e).span = e.span)
    (slot : ∀ e, (f e).slot? = e.slot?) (number : ∀ e, (f e).number? = e.number?) :
    (s.putLine (s.line.map f)).PlacesBut k x :=
  but.putLine (but.line.map f span number) ((countP_map_slot _ f slot k).trans but.own.1) Iff.rfl
    fun j _ => countP_map_slot _ f slot j

/-- An idle slot freed (R65). -/
theorem State.PlacesBut.freeSlot (but : s.PlacesBut k x) (idle : x.idle) : (s.freeSlot k).PlacesHold :=
  ((but.idle idle (.inl rfl)).mapLine (Entry.forget_span k) (Entry.forget_slot? k) (Entry.forget_number? k)).clear

/-- A truck entering STANDBY (R68). -/
theorem State.PlacesBut.enterStandby (but : s.PlacesBut k .standby) (occupied : (s.truck k).state ≠ .free)
    (holdoff : Option Time) : (s.enterStandby k holdoff).PlacesHold :=
  but.write rfl rfl occupied nofun

/-- An entry changed in its place by its name. -/
theorem State.PlacesHold.updateEntry (holds : s.PlacesHold) (r : EntryRef) {f : Entry → Entry}
    (span : ∀ e, (f e).span = e.span) (kind : ∀ e, (f e).kind = e.kind) : (s.updateEntry r f).PlacesHold := by
  have slot (e : Entry) : (if e.isRef r then f e else e).slot? = e.slot? := by
    split
    · simp only [Entry.slot?, kind]
    · rfl
  have number (e : Entry) : (if e.isRef r then f e else e).number? = e.number? := by
    split
    · simp only [Entry.number?, kind]
    · rfl
  have spans (e : Entry) : (if e.isRef r then f e else e).span = e.span := by
    split
    · exact span e
    · rfl
  have but := (s.placesHold_iff 0).1 holds
  exact holds.putLine (but.line.map _ spans number) (countP_map_slot _ _ slot)

/-- The queue's head granted its raise: it leaves the queue and its entry joins the line order (R111). -/
theorem State.PlacesHold.applyGrant (holds : s.PlacesHold) (queued : (s.truck k).state = .queued) {e : QueueEntry}
    {rest : List QueueEntry} (queue : s.queue = e :: rest) (head : e.slot = k) (span amount : Nat) :
    (s.applyGrant k span amount).PlacesHold := by
  have but := holds.but queued
  let u : State := { s with queue := s.queue.tail, spacing := some (after s.now s.params.raiseSpacing) }
  let placed : Entry := s.track { kind := .truck k, span := span } 500 s.now
  have kind : placed.kind = .truck k := rfl
  have counts (j : Slot) : (insertEntry placed s.line).countP (fun e => e.isTruckOf j) =
      s.line.countP (fun e => e.isTruckOf j) + if k = j then 1 else 0 := by
    rw [countP_insertEntry]
    simp [Entry.isTruckOf, kind]
  have left (j : Slot) : s.queue.countP (fun e => e.slot == j) =
      rest.countP (fun e => e.slot == j) + if k = j then 1 else 0 := by
    rw [queue, List.countP_cons, head]
    simp
  have tail : u.queue = rest := by simp [u, queue]
  have leaves : (u.putLine (insertEntry placed s.line)).PlacesBut k .raisePending := by
    refine ⟨⟨?_, ?_⟩, fun j ne => ⟨?_, ?_⟩, but.fleets.of_trucks rfl, but.line.insert_truck kind, rfl⟩
    · refine (counts k).trans ?_
      rw [but.own.1]
      simp [TruckState.inLine]
    · have own := but.own.2
      rw [left k] at own
      show u.queue.countP _ = 0
      rw [tail]
      simpa using own
    · refine (counts j).trans ?_
      rw [(but.others j ne).1, if_neg (Ne.symm ne)]
      rfl
    · have other := (but.others j ne).2
      rw [left j, if_neg (Ne.symm ne)] at other
      show u.queue.countP _ = _
      rw [tail]
      exact other
  exact leaves.write rfl rfl (by show (s.truck k).state ≠ .free; rw [queued]; exact nofun) nofun

/-- A phantom placed at the rear of its span, or PHANTOM_OVERFLOW set (R82). -/
theorem State.PlacesHold.createPhantom (holds : s.PlacesHold) (i v : Nat) : (s.createPhantom i v).PlacesHold := by
  unfold State.createPhantom
  split
  next room =>
    refine (State.tellEntered_samePlaces _ _ _).holds ((State.spanGained_samePlaces _ _).holds ?_)
    have but := (s.placesHold_iff 0).1 holds
    refine holds.putLine (but.line.insert_phantom room rfl (lowestFreePhantom_unused room)) fun j => ?_
    rw [countP_insertEntry]
    rfl
  next => exact (State.samePlaces_setFaults _ _).holds holds

theorem State.PlacesHold.unmatched (holds : s.PlacesHold) (n j v : Nat) : (s.unmatched n j v).PlacesHold :=
  ((s.samePlaces_setFaults _).holds holds).createPhantom _ _

/-- The foremost entry taken off the wire at joint N, its truck to STANDBY (R96, R117). -/
theorem State.PlacesHold.leaveWire (holds : s.PlacesHold) {e : Entry} {ahead behind : List Entry}
    (line : s.line = ahead ++ e :: behind) (foremost : ∀ x ∈ ahead, x.span ≠ e.span) : (s.leaveWire e).PlacesHold := by
  have left : updateForemost e.span (fun _ => none) s.line = ahead ++ behind := by
    rw [line, updateForemost_split _ e behind foremost]
    simp
  have sub : (ahead ++ behind).Sublist s.line := by
    rw [line]
    exact (List.sublist_cons_self e behind).append_left ahead
  have counts (j : Slot) : s.line.countP (fun e => e.isTruckOf j) =
      (ahead ++ behind).countP (fun e => e.isTruckOf j) + if e.isTruckOf j then 1 else 0 := by
    rw [line]
    simp only [List.countP_append, List.countP_cons]
    omega
  unfold State.leaveWire
  rw [left]
  cases kind : e.kind with
  | phantom n c x o =>
    refine (State.tellEmptied_samePlaces _ _).holds ?_
    have but := (s.placesHold_iff 0).1 holds
    refine holds.putLine (but.line.sublist sub) fun j => ?_
    rw [counts j]
    simp [Entry.isTruckOf, kind]
  | truck k =>
    have but := holds.but (k := k) rfl
    have entry (j : Slot) : e.isTruckOf j = (k == j) := by simp [Entry.isTruckOf, kind]
    have one := but.own.1
    rw [counts k, entry k] at one
    have inLine : (s.truck k).state.inLine = true := by
      refine Classical.byContradiction fun out => ?_
      rw [if_neg out] at one
      simp at one
    have gone : (ahead ++ behind).countP (fun e => e.isTruckOf k) = 0 := by
      rw [inLine] at one
      simpa using one
    have leaves : (s.putLine (ahead ++ behind)).PlacesBut k .standby := by
      refine but.putLine (but.line.sublist sub) gone (iff_of_false nofun ?_) fun j ne => ?_
      · intro queued
        rw [queued] at inLine
        exact nomatch inLine
      · rw [counts j, entry j]
        simp [Ne.symm ne]
    have occupied : (s.truck k).state ≠ .free := by
      intro free
      rw [free] at inLine
      exact nomatch inLine
    have told := State.tellEmptied_samePlaces (s.putLine (ahead ++ behind)) e.span
    exact (told.but leaves).enterStandby (mt (told.trucks k).free occupied) none

/-- The entry as it stands once it has moved up one span (R96 item 2). -/
def State.movedEntry (s : State) (e : Entry) (v : Nat) : Entry :=
  s.track { e with span := e.span + 1, speed := some v } v s.now

/-- The truck of a moved entry makes contact when it was RAISE_PENDING (R96 item 3, R112). -/
def State.makeContact (s : State) (kind : EntryKind) : State :=
  match kind with
  | .truck k => if (s.truck k).state = .raisePending then s.enterDrawing k else s
  | .phantom _ _ _ _ => s

theorem State.moveUp_eq {e : Entry} {ahead behind : List Entry} (line : s.line = ahead ++ e :: behind)
    (foremost : ∀ x ∈ ahead, x.span ≠ e.span) (v : Nat) :
    s.moveUp e v = ((((s.putLine (ahead ++ s.movedEntry e v :: behind)).makeContact e.kind).tellEmptied
      e.span).spanGained (e.span + 1)).tellEntered (e.span + 1) e.kind := by
  have moved : updateForemost e.span
      (fun x => some (s.track { x with span := e.span + 1, speed := some v } v s.now)) s.line =
        ahead ++ s.movedEntry e v :: behind := by
    rw [line, updateForemost_split _ e behind foremost]
    simp [State.movedEntry]
  rw [← moved]
  unfold State.moveUp State.makeContact
  cases e.kind <;> rfl

theorem State.makeContact_samePlaces (s : State) (kind : EntryKind) : s.SamePlaces (s.makeContact kind) := by
  unfold State.makeContact
  cases kind with
  | phantom => exact .refl s
  | truck k =>
    dsimp only
    split
    next pending => exact State.enterDrawing_samePlaces (by rw [pending]; rfl)
    next => exact .refl s

/-- The foremost entry moved up one span (R96). -/
theorem State.PlacesHold.moveUp (holds : s.PlacesHold) {e : Entry} {ahead behind : List Entry}
    (line : s.line = ahead ++ e :: behind) (foremost : ∀ x ∈ ahead, x.span ≠ e.span) (v : Nat) :
    (s.moveUp e v).PlacesHold := by
  have but := (s.placesHold_iff 0).1 holds
  have lined : (s.putLine (ahead ++ s.movedEntry e v :: behind)).PlacesHold := by
    refine holds.putLine (LineFits.move_up (line ▸ but.line) foremost rfl rfl) fun j => ?_
    rw [line]
    simp only [List.countP_append, List.countP_cons]
    rfl
  rw [State.moveUp_eq line foremost]
  exact (State.tellEntered_samePlaces _ _ _).holds ((State.spanGained_samePlaces _ _).holds
    ((State.tellEmptied_samePlaces _ _).holds ((State.makeContact_samePlaces _ _).holds lined)))

theorem State.PlacesHold.takePass (holds : s.PlacesHold) (j width : Nat) (overlong : Bool) :
    (s.takePass j width overlong).PlacesHold := by
  unfold State.takePass
  split
  · exact holds
  · split
    · exact holds
    · dsimp only
      split
      · exact holds.unmatched _ _ _
      next e found =>
        split at found
        · exact nomatch found
        · obtain ⟨ahead, behind, line, -, foremost⟩ := find_foremost found
          split
          · exact holds.leaveWire line foremost
          · exact holds.moveUp line foremost _

end Operations

end Sys2Proof.Machine

namespace Sys2Proof.Machine

/-! ### Queue entries purged (R108, R141) and the records of all trucks rewritten at once (R115) -/

/-- The record of a truck taken out of the queue on the part's account. -/
def Truck.expelled (t : Truck) (idle : Time) (r : Reason) : Truck := { t.standby idle none with refusal := some r }

theorem Truck.expelled_expelled (t : Truck) (idle : Time) (r : Reason) :
    (t.expelled idle r).expelled idle r = t.expelled idle r := rfl

/-- The time at which a truck that enters STANDBY now is freed (R63, R68). -/
def State.idleTime (s : State) : Time := after s.now (s.params.standbyIdle * 1000)

theorem State.purgeSpan_spec (s : State) (i : Nat) :
    s.purgeSpan i = { s with queue := s.queue.filter fun e => e.span != i, trucks := (s.purgeSpan i).trucks } ∧
      ∀ k, (s.purgeSpan i).truck k =
        if s.queue.any (fun e => e.slot == k && e.span == i) then (s.truck k).expelled s.idleTime .spanBarred
        else s.truck k := by
  let u : State := { s with queue := s.queue.filter fun e => e.span != i }
  have fold : s.purgeSpan i =
      ((s.queue.filter fun e => e.span == i).map QueueEntry.slot).foldl (fun t k => t.expel k .spanBarred) u := by
    rw [List.foldl_map]
    rfl
  obtain ⟨frame, trucks⟩ := State.expel_fold .spanBarred ((s.queue.filter fun e => e.span == i).map QueueEntry.slot) u
  rw [← fold] at frame trucks
  refine ⟨frame, fun k => (trucks k).trans ?_⟩
  have slots : k ∈ (s.queue.filter fun e => e.span == i).map QueueEntry.slot ↔
      s.queue.any (fun e => e.slot == k && e.span == i) = true := by
    simp only [List.mem_map, List.mem_filter, beq_iff_eq, List.any_eq_true, Bool.and_eq_true]
    exact ⟨fun ⟨e, ⟨mem, span⟩, slot⟩ => ⟨e, mem, slot, span⟩, fun ⟨e, mem, slot, span⟩ => ⟨e, ⟨mem, span⟩, slot⟩⟩
  simp only [slots]
  rfl

/-- Spans purged one after another: each entry for one of them goes, and its truck is expelled once. -/
theorem State.purgeSpans_spec (l : List Nat) (s : State) :
    let t := l.foldl State.purgeSpan s
    t = { s with queue := s.queue.filter fun e => !decide (e.span ∈ l), trucks := t.trucks } ∧
      ∀ k, t.truck k =
        if s.queue.any (fun e => e.slot == k && decide (e.span ∈ l)) then (s.truck k).expelled s.idleTime .spanBarred
        else s.truck k := by
  induction l generalizing s with
  | nil =>
    have queue : (s.queue.filter fun e => !decide (e.span ∈ [])) = s.queue := List.filter_eq_self.2 fun e _ => by simp
    exact ⟨congrArg (fun queue => ({ s with queue := queue } : State)) queue.symm, fun k => by simp⟩
  | cons i l ih =>
    obtain ⟨frame, trucks⟩ := s.purgeSpan_spec i
    obtain ⟨frame', trucks'⟩ := ih (s.purgeSpan i)
    have queue : (s.purgeSpan i).queue = s.queue.filter fun e => e.span != i := by rw [frame]
    have time : (s.purgeSpan i).idleTime = s.idleTime := by rw [State.idleTime, frame]; rfl
    simp only [List.foldl_cons]
    refine ⟨?_, fun k => ?_⟩
    · have filters : (s.queue.filter fun e => !decide (e.span ∈ i :: l)) =
          (s.purgeSpan i).queue.filter fun e => !decide (e.span ∈ l) := by
        rw [queue, List.filter_filter]
        congr 1
        funext e
        by_cases own : e.span = i <;> simp [own]
      rw [filters]
      generalize l.foldl State.purgeSpan (s.purgeSpan i) = t at frame'
      rw [frame', frame]
    · rw [trucks' k, trucks k, queue, time]
      have rest : (s.queue.filter fun e => e.span != i).any (fun e => e.slot == k && decide (e.span ∈ l)) = true ↔
          ∃ e ∈ s.queue, e.span ≠ i ∧ e.slot = k ∧ e.span ∈ l := by
        simp
      have whole : s.queue.any (fun e => e.slot == k && decide (e.span ∈ i :: l)) = true ↔
          ∃ e ∈ s.queue, e.slot = k ∧ (e.span = i ∨ e.span ∈ l) := by
        simp
      have first : s.queue.any (fun e => e.slot == k && e.span == i) = true ↔ ∃ e ∈ s.queue, e.slot = k ∧ e.span = i := by
        simp
      by_cases own : ∃ e ∈ s.queue, e.slot = k ∧ e.span = i
      · obtain ⟨e, mem, slot, span⟩ := own
        rw [if_pos (first.2 ⟨e, mem, slot, span⟩), if_pos (whole.2 ⟨e, mem, slot, .inl span⟩)]
        split
        · exact Truck.expelled_expelled _ _ _
        · rfl
      · rw [if_neg (mt first.1 own)]
        by_cases later : ∃ e ∈ s.queue, e.span ≠ i ∧ e.slot = k ∧ e.span ∈ l
        · obtain ⟨e, mem, -, slot, span⟩ := later
          rw [if_pos (rest.2 ⟨e, mem, fun eq => own ⟨e, mem, slot, eq⟩, slot, span⟩),
            if_pos (whole.2 ⟨e, mem, slot, .inr span⟩)]
        · rw [if_neg (mt rest.1 later), if_neg]
          rw [whole]
          rintro ⟨e, mem, slot, span | span⟩
          · exact own ⟨e, mem, slot, span⟩
          · exact later ⟨e, mem, fun eq => own ⟨e, mem, slot, eq⟩, slot, span⟩

/-- The span is OPEN and lies in the range that is barred. -/
def State.fresh (s : State) (a b i : Nat) : Bool := decide (a ≤ i ∧ i ≤ b) && s.spanState i == .opened

theorem State.mem_fresh (s : State) (a b i : Nat) :
    (i ∈ (spanRange a b).filter fun i => s.spanState i = .opened) ↔ s.fresh a b i = true := by
  simp [State.fresh, List.mem_filter, mem_spanRange]

/-- A bar writes the states of the spans newly barred, and purges the queue of them (R141, R108). -/
theorem State.applyBar_spec (s : State) (a b : Nat) :
    let t := s.applyBar a b
    t = { s with
      spanStates := t.spanStates, trucks := t.trucks, queue := s.queue.filter fun e => !s.fresh a b e.span } ∧
    (∀ m, m < 16 → t.spanState m =
      if s.fresh a b m then (if s.occupied m then .pendingBar else .barred) else s.spanState m) ∧
    ∀ k, t.truck k =
      if s.queue.any (fun e => e.slot == k && s.fresh a b e.span) then (s.truck k).expelled s.idleTime .spanBarred
      else s.truck k := by
  obtain ⟨states, barred⟩ := State.barSpan_fold (spanRange a b) s
  obtain ⟨frame, trucks⟩ := State.purgeSpans_spec ((spanRange a b).filter fun i => s.spanState i = .opened)
    ((spanRange a b).foldl State.barSpan s)
  rw [← State.applyBar] at frame trucks
  intro t
  have freshly (i : Nat) : decide (i ∈ (spanRange a b).filter fun i => s.spanState i = .opened) = s.fresh a b i := by
    rw [Bool.eq_iff_iff, decide_eq_true_iff, State.mem_fresh]
  simp only [freshly] at frame trucks
  have statesKept : t.spanStates = ((spanRange a b).foldl State.barSpan s).spanStates := by
    show (s.applyBar a b).spanStates = _
    rw [frame]
  have framed : t = { s with
      spanStates := t.spanStates, trucks := t.trucks, queue := s.queue.filter fun e => !s.fresh a b e.span } := by
    show s.applyBar a b = { s with
      spanStates := (s.applyBar a b).spanStates, trucks := (s.applyBar a b).trucks,
      queue := s.queue.filter fun e => !s.fresh a b e.span }
    generalize s.applyBar a b = v at frame
    generalize (spanRange a b).foldl State.barSpan s = u at frame barred
    obtain ⟨states, rfl⟩ : ∃ states, u = { s with spanStates := states } := ⟨_, barred⟩
    obtain ⟨records, rfl⟩ : ∃ records, v = { s with
      spanStates := states, trucks := records, queue := s.queue.filter fun e => !s.fresh a b e.span } := ⟨_, frame⟩
    rfl
  refine ⟨framed, fun m small => ?_, fun k => (trucks k).trans ?_⟩
  · have state : t.spanState m = ((spanRange a b).foldl State.barSpan s).spanState m := by
      unfold State.spanState
      rw [statesKept]
    rw [state, states m small]
    by_cases mem : m ∈ spanRange a b <;> by_cases opened : s.spanState m = .opened <;>
      simp [State.fresh, opened, ← mem_spanRange, mem]
  · generalize (spanRange a b).foldl State.barSpan s = u at barred
    rw [barred]
    rfl

/-! ### Records and queue rewritten together -/

section Requeue
variable {s t : State}

/-- The line order stands; every record keeps its fleet number, its line-order state and its FREE record, and the queue
holds the slots of the QUEUED trucks. -/
theorem State.PlacesHold.requeue (holds : s.PlacesHold) (line : t.line = s.line) (count : t.phantomCount = s.phantomCount)
    (fleet : ∀ k, (t.truck k).fleet = (s.truck k).fleet)
    (inLine : ∀ k, (t.truck k).state.inLine = (s.truck k).state.inLine)
    (free : ∀ k, (t.truck k).state = .free ↔ (s.truck k).state = .free)
    (empty : ∀ k, (s.truck k).state = .free → t.truck k = s.truck k)
    (queue : ∀ k, t.queue.countP (fun e => e.slot == k) = if (t.truck k).state = .queued then 1 else 0) :
    t.PlacesHold := by
  obtain ⟨agree, ⟨emptyS, occupied, distinct⟩, inOrder⟩ := holds
  have holdsOf (k : Slot) (f : U16) : t.Holds k f → s.Holds k f := fun ⟨state, held⟩ =>
    ⟨mt (free k).2 state, fleet k ▸ held⟩
  refine ⟨fun k => ⟨?_, queue k⟩, ⟨fun k isFree => ?_, fun k isOccupied => ?_, fun j k f hj hk =>
    distinct j k f (holdsOf j f hj) (holdsOf k f hk)⟩, ?_⟩
  · rw [line, inLine]
    exact (agree k).1
  · have before := (free k).1 isFree
    rw [empty k before, emptyS k before]
  · rw [fleet]
    exact occupied k (mt (free k).2 isOccupied)
  · rw [State.lineInOrder_iff] at inOrder ⊢
    rw [line, count]
    exact inOrder

/-- A slot that the queue names has a QUEUED truck. -/
theorem State.PlacesHold.queued_of_mem (holds : s.PlacesHold) {e : QueueEntry} (mem : e ∈ s.queue) :
    (s.truck e.slot).state = .queued := by
  refine Classical.byContradiction fun other => ?_
  have none := (holds.1 e.slot).2
  rw [if_neg other, List.countP_eq_zero] at none
  exact none e mem (beq_self_eq_true _)

/-- STOP empties the queue and orders off the trucks on the wire. -/
theorem State.PlacesHold.stopTrucks (holds : s.PlacesHold) : s.stopTrucks.PlacesHold := by
  obtain ⟨trucks, frame⟩ := s.stopTrucks_spec
  have record (k : Slot) : (s.stopTruck k).truck k = s.stopTrucks.truck k := (trucks k).symm
  have queue : s.stopTrucks.queue = [] := by rw [frame]
  have line : s.stopTrucks.line = s.line := by rw [frame]
  have count : s.stopTrucks.phantomCount = s.phantomCount := by rw [frame]
  have stopped (k : Slot) : (s.stopTrucks.truck k).fleet = (s.truck k).fleet ∧
      (s.stopTrucks.truck k).state.inLine = (s.truck k).state.inLine ∧
      ((s.stopTrucks.truck k).state = .free ↔ (s.truck k).state = .free) ∧
      ((s.truck k).state = .free → s.stopTrucks.truck k = s.truck k) ∧ (s.stopTrucks.truck k).state ≠ .queued := by
    rw [← record k]
    cases state : (s.truck k).state <;>
      simp [State.stopTruck, State.lowerOrder, State.expel_eq, state, Truck.standby, TruckState.inLine]
  refine holds.requeue line count (fun k => (stopped k).1) (fun k => (stopped k).2.1) (fun k => (stopped k).2.2.1)
    (fun k => (stopped k).2.2.2.1) fun k => ?_
  rw [queue, if_neg (stopped k).2.2.2.2]
  rfl

/-- A bar takes the trucks that wait for a span newly barred out of the queue. -/
theorem State.PlacesHold.applyBar (holds : s.PlacesHold) (a b : Nat) : (s.applyBar a b).PlacesHold := by
  obtain ⟨frame, -, trucks⟩ := s.applyBar_spec a b
  generalize s.applyBar a b = t at frame trucks
  have queue : t.queue = s.queue.filter fun e => !s.fresh a b e.span := by rw [frame]
  have kept (k : Slot) : t.truck k = s.truck k ∨
      (s.truck k).state = .queued ∧ t.truck k = (s.truck k).expelled s.idleTime .spanBarred := by
    rw [trucks k]
    split
    next named =>
      obtain ⟨e, mem, slot⟩ := List.any_eq_true.1 named
      simp only [Bool.and_eq_true, beq_iff_eq] at slot
      exact .inr ⟨slot.1 ▸ holds.queued_of_mem mem, rfl⟩
    next => exact .inl rfl
  refine holds.requeue (by rw [frame]) (by rw [frame]) (fun k => ?_) (fun k => ?_) (fun k => ?_) (fun k free => ?_)
    fun k => ?_
  · rcases kept k with same | ⟨-, expelled⟩
    · rw [same]
    · rw [expelled]
      rfl
  · rcases kept k with same | ⟨queued, expelled⟩
    · rw [same]
    · rw [expelled, queued]
      rfl
  · rcases kept k with same | ⟨queued, expelled⟩
    · rw [same]
    · rw [expelled, queued]
      exact iff_of_false nofun nofun
  · rcases kept k with same | ⟨queued, -⟩
    · exact same
    · rw [queued] at free
      exact nomatch free
  · have before := (holds.1 k).2
    rw [queue, List.countP_filter, trucks k]
    by_cases named : s.queue.any (fun e => e.slot == k && s.fresh a b e.span) = true
    · rw [if_pos named]
      obtain ⟨e, mem, own⟩ := List.any_eq_true.1 named
      simp only [Bool.and_eq_true, beq_iff_eq] at own
      obtain ⟨slot, fresh⟩ := own
      have split : s.queue.countP (fun e => e.slot == k) =
          s.queue.countP (fun e => e.slot == k && !s.fresh a b e.span) +
            s.queue.countP (fun e => e.slot == k && s.fresh a b e.span) := by
        rw [List.countP_eq_countP_filter_add _ _ fun e => !s.fresh a b e.span, List.countP_filter, List.countP_filter]
        simp only [Bool.not_not]
      have some : 0 < s.queue.countP fun e => e.slot == k && s.fresh a b e.span :=
        List.countP_pos_iff.2 ⟨e, mem, by simp [slot, fresh]⟩
      have queued : (s.truck k).state = .queued := slot ▸ holds.queued_of_mem mem
      rw [if_pos queued] at before
      show _ = 0
      omega
    · rw [if_neg named, ← before]
      refine List.countP_congr fun e mem => ?_
      have notFresh : ¬(e.slot = k ∧ s.fresh a b e.span = true) := fun ⟨slot, fresh⟩ =>
        named (List.any_eq_true.2 ⟨e, mem, by simp [slot, fresh]⟩)
      by_cases slot : e.slot = k
      · simp [slot, Bool.eq_false_iff.2 fun fresh => notFresh ⟨slot, fresh⟩]
      · simp [slot]

end Requeue

end Sys2Proof.Machine

namespace Sys2Proof.Machine

/-! ### A promise kept by the ports and by the rules is kept by every command

A port's own commands write its record, or complete a request frame; so a promise that no port record enters has to be
followed through the other commands alone. -/

/-- The promise survives what a port's commands write of its record. -/
def KeptOnPorts (P : State → Prop) : Prop := ∀ s p x, (s.port p).CountsOn x → P s → P (s.setPort p x)

/-- The commands of a port's own receiver and driver (R158, R159). -/
def onReceiver : Instr → Bool
  | .frameStart .. | .frameDiscarded .. | .frameTimeout _ | .answerSent _ => true
  | _ => false

section Kept
variable {P : State → Prop} {s t : State}

theorem KeptOnPorts.request (ports : KeptOnPorts P) {rule : State → State × Answer} (rules : P s → P (rule s).1)
    (p : Port) (holds : P s) : P (s.request p rule) := by
  unfold State.request
  split
  · exact ports _ _ _ (PortState.countsOn_of_eq rfl rfl) (rules holds)
  · split
    · exact ports _ _ _ (PortState.countsOn_of_eq rfl rfl) holds
    · exact holds

theorem KeptOnPorts.exec (ports : KeptOnPorts P)
    (others : ∀ c s t, onReceiver c = false → exec c s = .next t → P s → P t) {c : Instr} (next : exec c s = .next t)
    (holds : P s) : P t := by
  have ported {p : Port} (h : ∃ x, (s.port p).CountsOn x ∧ Machine.exec c s = .next (s.setPort p x)) : P t := by
    obtain ⟨x, counts, eq⟩ := h
    obtain rfl := Host.Outcome.next.inj (next.symm.trans eq)
    exact ports s p x counts holds
  by_cases receiver : onReceiver c = true
  · cases c with
    | frameDiscarded p w => exact ported (exec_frameDiscarded_port s p w)
    | frameTimeout p => exact ported (exec_frameTimeout_port s p)
    | answerSent p => exact ported (exec_answerSent_port s p)
    | frameStart p b =>
      obtain ⟨u, eq, received⟩ := exec_frameStart_received s p b
      obtain rfl := Host.Outcome.next.inj (next.symm.trans eq)
      cases received with
      | port x counts => exact ports s p x counts holds
      | request i k payload x parts counts =>
        have request : (requestParts i).isSome = true := by rw [parts]; rfl
        have other : onReceiver i = false := by
          cases i <;> first | rfl | exact absurd request Bool.false_ne_true
        exact others i _ _ other (exec_of_takeRequest _ request) (ports s p x counts holds)
    | _ => exact nomatch receiver
  · exact others c s t (Bool.eq_false_iff.2 receiver) next holds

end Kept

/-! ### The truck table, the line order and the queue after each rule -/

theorem State.placesHold_onPorts : KeptOnPorts State.PlacesHold := fun s p x _ => (s.samePlaces_setPort p x).holds

theorem State.holds_of_enrolled {s : State} {slot : Byte} {f : U16} {k : Slot} (enrolled : s.enrolled slot f = some k) :
    s.Holds k f := by
  unfold State.enrolled at enrolled
  split at enrolled
  · exact nomatch enrolled
  · split at enrolled
    · next held =>
      obtain rfl := Option.some.inj enrolled
      exact held
    · exact nomatch enrolled

@[simp] theorem State.takenFrom_state (s : State) (k : Slot) : ((s.takenFrom k).truck k).state = (s.truck k).state := by
  rw [State.takenFrom, State.truck_setTruck_same]

section Rules
variable {s : State} {k : Slot}

theorem State.PlacesHold.takenFrom (holds : s.PlacesHold) (occupied : (s.truck k).state ≠ .free) :
    (s.takenFrom k).PlacesHold := (s.takenFrom_samePlaces occupied).holds holds

theorem State.PlacesHold.limit (holds : s.PlacesHold) (k : Slot) : (s.limit k).1.PlacesHold :=
  (s.limit_samePlaces k).holds holds

theorem State.PlacesHold.setSilence (holds : s.PlacesHold) (k : Slot) : (s.setSilence k).PlacesHold :=
  (s.setSilence_samePlaces k).holds holds

theorem joinRule_places (holds : s.PlacesHold) (fleet : U16) : (joinRule fleet s).1.PlacesHold := by
  unfold joinRule
  split
  · exact holds
  next nonzero =>
    split
    next k found =>
      have held := List.find?_some found
      simp only [Bool.and_eq_true, bne_iff_ne, ne_eq] at held
      exact (holds.takenFrom held.1).setSilence k
    next new =>
      split
      next k found =>
        have free : (s.truck k).state = .free := by simpa using List.find?_some found
        have absent (j : Slot) : ¬s.Holds j fleet := fun ⟨occupied, fleetOf⟩ => by
          have other := List.find?_eq_none.1 new j (mem_allSlots j)
          simp [occupied, fleetOf] at other
        dsimp only
        rw [State.enterStandby_eq, State.truck_setTruck_same, State.setTruck_setTruck]
        exact ((holds.but free).idle (.inl rfl) (.inr rfl)).enrol rfl rfl nonzero absent
      next => exact holds

/-- An entry leaves the line order and its truck enters STANDBY. -/
theorem State.PlacesHold.takeOff (holds : s.PlacesHold) (inLine : (s.truck k).state.inLine = true)
    (holdoff : Option Time) : ((s.removeTruck k).enterStandby k holdoff).PlacesHold := by
  refine ((holds.but rfl).removeTruck inLine (.inr rfl)).enterStandby ?_ holdoff
  rw [State.truck_removeEntries]
  exact fun free => by rw [free] at inLine; exact nomatch inLine

theorem State.PlacesHold.pantoTransition (holds : s.PlacesHold) (k : Slot) (p : Panto) :
    (s.pantoTransition k p).PlacesHold := by
  have drawing (inLine : (s.truck k).state.inLine = true) : (s.enterDrawing k).PlacesHold :=
    (State.enterDrawing_samePlaces inLine).holds holds
  unfold State.pantoTransition
  cases state : (s.truck k).state <;> cases p <;> dsimp only
  case silent.down => exact holds.takeOff (by rw [state]; rfl) none
  case drawing.down => exact holds.takeOff (by rw [state]; rfl) none
  case lowering.down => exact holds.takeOff (by rw [state]; rfl) _
  case raisePending.up => exact drawing (by rw [state]; rfl)
  case silent.up =>
    split
    · exact drawing (by rw [state]; rfl)
    · exact (State.lowerOrder_samePlaces _ k).holds (drawing (by rw [state]; rfl))
  all_goals exact holds

theorem Entry.isPhantom_of_hasOrigin {e : Entry} {f : U16} (origin : e.hasOrigin k f = true) : e.isPhantom = true := by
  unfold Entry.hasOrigin at origin
  split at origin
  next kind => rw [Entry.isPhantom, kind]
  next => exact nomatch origin

theorem statusRule_places (holds : s.PlacesHold) (slot : Byte) (fleet : U16) (panto : Byte)
    (inForce measured wanted : U16) : (statusRule slot fleet panto inForce measured wanted s).1.PlacesHold := by
  unfold statusRule
  split
  · exact holds
  next k enrolled =>
    obtain ⟨occupied, -⟩ := State.holds_of_enrolled enrolled
    have recorded : ((s.takenFrom k).recordStatus k (pantoOf panto) inForce.toNat measured.toNat).PlacesHold :=
      (State.recordStatus_samePlaces (by rwa [State.takenFrom_state]) _ _ _).holds (holds.takenFrom occupied)
    refine State.PlacesHold.limit (.setSilence ((State.evaluateCut_samePlaces _ k).holds
      ((State.applyWanted_samePlaces _ k _).holds (State.PlacesHold.pantoTransition ?_ k _))) k) k
    split
    · exact recorded.removePhantoms fun e => Entry.isPhantom_of_hasOrigin
    · exact recorded

theorem State.PlacesHold.acceptRaise (holds : s.PlacesHold)
    (state : (s.truck k).state = .standby ∨ (s.truck k).state = .queued) (span request iMin : Nat) :
    (s.acceptRaise k span request iMin).PlacesHold := by
  unfold State.acceptRaise
  dsimp only
  split
  next queued =>
    have occupied : (s.truck k).state ≠ .free := by rw [queued]; exact nofun
    refine State.SamePlaces.holds ?_ ((State.samePlaces_setTruck (x := (s.truck k).takeRequest request iMin)
      (Truck.samePlace_of_state occupied rfl rfl)).holds holds)
    refine ⟨rfl, rfl, ?_, fun _ => .refl _⟩
    rw [List.map_map]
    refine List.map_congr_left fun e _ => ?_
    by_cases own : e.slot = k <;> simp [own]
  next notQueued =>
    have standby := state.resolve_right notQueued
    have occupied : (s.truck k).state ≠ .free := by rw [standby]; exact nofun
    exact ((holds.but standby).enqueue (.inr rfl) span true).write (t := { (s.truck k).takeRequest request iMin with
      state := .queued, throughout := false, idle := none
      queueWait := some (after s.now (s.params.queueWait * 1000)) }) rfl rfl occupied nofun

theorem State.raiseRefusal_eq_none_state {span : Nat} (none : s.raiseRefusal k span = none) :
    (s.truck k).state = .standby ∨ (s.truck k).state = .queued := by
  unfold State.raiseRefusal at none
  refine Classical.byContradiction fun other => ?_
  rw [if_pos (not_or.1 other)] at none
  split at none <;> exact nomatch none

theorem raiseRule_places (holds : s.PlacesHold) (slot : Byte) (fleet : U16) (span : Byte) (request iMin : U16) :
    (raiseRule slot fleet span request iMin s).1.PlacesHold := by
  unfold raiseRule
  split
  · exact holds
  next k enrolled =>
    obtain ⟨occupied, -⟩ := State.holds_of_enrolled enrolled
    dsimp only
    split
    · exact (holds.takenFrom occupied).setSilence k
    next accepted =>
      exact ((holds.takenFrom occupied).acceptRaise (State.raiseRefusal_eq_none_state accepted) _ _ _).limit k

/-- A truck taken out of the queue enters STANDBY. -/
theorem State.PlacesHold.dequeue (holds : s.PlacesHold) (queued : (s.truck k).state = .queued) :
    ((s.unqueue k).enterStandby k none).PlacesHold :=
  ((holds.but queued).unqueue (.inr rfl)).enterStandby (by show (s.truck k).state ≠ .free; rw [queued]; exact nofun) none

theorem cancelRule_places (holds : s.PlacesHold) (slot : Byte) (fleet : U16) :
    (cancelRule slot fleet s).1.PlacesHold := by
  unfold cancelRule
  split
  · exact holds
  next k enrolled =>
    obtain ⟨occupied, -⟩ := State.holds_of_enrolled enrolled
    have taken := holds.takenFrom occupied
    dsimp only
    split
    case h_1 state => exact (taken.dequeue state).limit k
    case h_2 => exact taken.limit k
    case h_3 state => exact (taken.takeOff (by rw [state]; rfl) none).limit k
    all_goals exact taken.setSilence k

theorem State.PlacesHold.freeStandby (holds : s.PlacesHold) (standby : (s.truck k).state = .standby) :
    (s.freeSlot k).PlacesHold := (holds.but standby).freeSlot (.inr rfl)

theorem State.PlacesHold.freeQueued (holds : s.PlacesHold) (queued : (s.truck k).state = .queued) :
    ((s.unqueue k).freeSlot k).PlacesHold := ((holds.but queued).unqueue (.inl rfl)).freeSlot (.inl rfl)

theorem leaveRule_places (holds : s.PlacesHold) (slot : Byte) (fleet : U16) : (leaveRule slot fleet s).1.PlacesHold := by
  unfold leaveRule
  split
  · exact holds
  next k enrolled =>
    obtain ⟨occupied, -⟩ := State.holds_of_enrolled enrolled
    have taken := holds.takenFrom occupied
    dsimp only
    split
    case h_1 state => exact taken.freeStandby state
    case h_2 state => exact taken.freeQueued state
    case h_3 => exact taken.setSilence k

theorem evictRule_places (holds : s.PlacesHold) (slot : Byte) (flag : Bool) : (evictRule slot flag s).1.PlacesHold := by
  unfold evictRule
  split
  · exact holds
  next k _ =>
    have converted (inLine : (s.truck k).state.inLine = true) :
        ((s.convert k (s.truck k).exposure none).freeSlot k).PlacesHold :=
      ((holds.but rfl).convert inLine (.inl rfl) _ _).freeSlot (.inl rfl)
    split
    case h_1 => exact holds
    case h_2 state => exact holds.freeStandby state
    case h_3 state => exact holds.freeQueued state
    all_goals
      next state => exact converted (by rw [state]; rfl)

theorem clearPhantomRule_places (holds : s.PlacesHold) (number : Byte) (flag : Bool) :
    (clearPhantomRule number flag s).1.PlacesHold := by
  unfold clearPhantomRule
  have ofNo (n : PhantomNo) (e : Entry) (named : e.isPhantomNo n = true) : e.isPhantom = true := by
    rw [Entry.isPhantomNo_eq, beq_iff_eq] at named
    rw [Entry.isPhantom_eq, named]
    rfl
  split
  · split
    · exact holds.removePhantoms fun _ phantom => phantom
    · exact holds
  · split
    · exact holds
    · split
      · exact holds.removePhantoms (ofNo _)
      · exact holds

theorem stopRule_places (holds : s.PlacesHold) (flag : Bool) : (stopRule flag s).1.PlacesHold := by
  unfold stopRule
  split
  · have stopped : ({ s with sect := .stopped, cycle := none, inFlight := none } : State).PlacesHold :=
      (State.samePlaces_of_eq rfl rfl rfl rfl).holds holds
    dsimp only
    exact stopped.stopTrucks
  · exact holds

theorem isoApplyRule_places (holds : s.PlacesHold) : (isoApplyRule s).1.PlacesHold := by
  unfold isoApplyRule
  split
  next a b _ =>
    have barred := holds.applyBar a b
    exact (State.samePlaces_of_eq rfl rfl rfl rfl).holds barred
  · exact (State.samePlaces_of_eq rfl rfl rfl rfl).holds holds

end Rules

end Sys2Proof.Machine

namespace Sys2Proof.Machine

/-! ### The truck table, the line order and the queue after each event -/

section Events
variable {s : State} {k : Slot}

theorem State.PlacesHold.rename (holds : s.PlacesHold) {t : State} (line : t.line = s.line)
    (count : t.phantomCount = s.phantomCount) (queue : t.queue = s.queue) (trucks : t.trucks = s.trucks) :
    t.PlacesHold := (State.samePlaces_of_eq line count queue trucks).holds holds

/-- A truck whose entry becomes a phantom in its place enters STANDBY. -/
theorem State.PlacesHold.takeForPhantom (holds : s.PlacesHold) (inLine : (s.truck k).state.inLine = true) (current : Nat)
    (origin : Option (Slot × U16)) (holdoff : Option Time) :
    ((s.convert k current origin).enterStandby k holdoff).PlacesHold := by
  refine ((holds.but rfl).convert inLine (.inr rfl) current origin).enterStandby ?_ holdoff
  have same : (s.convert k current origin).truck k = s.truck k := by
    unfold State.convert
    split
    · rfl
    · exact s.truck_removeEntries _ k
  rw [same]
  exact fun free => by rw [free] at inLine; exact nomatch inLine

theorem State.PlacesHold.setChannel (holds : s.PlacesHold) (j : Joint) (c : Channel) : (s.setChannel j c).PlacesHold :=
  holds.rename rfl rfl rfl rfl

theorem exec_blankingDeadline_places (holds : s.PlacesHold) (j : Joint) {t : State}
    (next : exec (.blankingDeadline j) s = .next t) : t.PlacesHold := by
  obtain rfl := Host.Outcome.next.inj next
  dsimp only
  split
  · split
    · exact holds.setChannel j _
    · split
      · exact holds.setChannel j _
      · exact (holds.setChannel j _).takePass _ _ _
  · exact holds

theorem exec_overlongDeadline_places (holds : s.PlacesHold) (j : Joint) {t : State}
    (next : exec (.overlongDeadline j) s = .next t) : t.PlacesHold := by
  obtain rfl := Host.Outcome.next.inj next
  dsimp only
  split
  · split
    · exact (holds.setChannel j _).takePass _ _ _
    · exact (holds.setChannel j _).takePass _ _ _
    · exact holds
  · exact holds

theorem exec_nextJointDeadline_places (holds : s.PlacesHold) (r : EntryRef) {t : State}
    (next : exec (.nextJointDeadline r) s = .next t) : t.PlacesHold := by
  obtain rfl := Host.Outcome.next.inj next
  split
  · exact holds
  · split
    · exact holds.updateEntry r (fun _ => rfl) fun _ => rfl
    · exact holds

theorem exec_lostDeadline_places (holds : s.PlacesHold) (r : EntryRef) {t : State}
    (next : exec (.lostDeadline r) s = .next t) : t.PlacesHold := by
  obtain rfl := Host.Outcome.next.inj next
  split
  · exact holds
  · split
    · have updated := holds.updateEntry r (f := fun e => { e with lost := none }) (fun _ => rfl) fun _ => rfl
      cases r with
      | truck k => exact (State.lowerOrder_samePlaces _ k).holds ((State.samePlaces_setEvents _ _).holds updated)
      | phantom n => exact updated
    · exact holds

theorem exec_phantomExpiry_places (holds : s.PlacesHold) (n : PhantomNo) {t : State}
    (next : exec (.phantomExpiry n) s = .next t) : t.PlacesHold := by
  obtain rfl := Host.Outcome.next.inj next
  split
  · exact holds
  · split
    · refine holds.removePhantoms fun e named => ?_
      rw [Entry.isPhantomNo_eq, beq_iff_eq] at named
      rw [Entry.isPhantom_eq, named]
      rfl
    · exact holds

/-! ### Commits and resets -/

theorem State.grantApplies_head {fleet : Option U16} {span : Nat} (applies : s.grantApplies k fleet span = true) :
    (s.truck k).state = .queued ∧ ∃ e rest, s.queue = e :: rest ∧ e.slot = k := by
  simp only [State.grantApplies, Bool.and_eq_true, beq_iff_eq] at applies
  obtain ⟨⟨⟨⟨queued, -⟩, head⟩, -⟩, -⟩ := applies
  cases queue : s.queue with
  | nil =>
    rw [queue] at head
    exact nomatch head
  | cons e rest =>
    simp only [queue, Bool.and_eq_true, beq_iff_eq] at head
    exact ⟨queued, e, rest, rfl, head.1.1⟩

theorem State.PlacesHold.commitOf (holds : s.PlacesHold) (x : Snapshot) : (s.commitOf x).PlacesHold := by
  have ended : ({ s with inFlight := none } : State).PlacesHold := holds.rename rfl rfl rfl rfl
  have results := (State.applyResults_samePlaces { s with inFlight := none } (List.zip x.entries x.heldOrTargets)).holds ended
  unfold State.commitOf
  dsimp only
  generalize (List.zip x.entries x.heldOrTargets).foldl State.applyResult { s with inFlight := none } = u at results
  split
  · exact results.rename rfl rfl rfl rfl
  next h a _ =>
    by_cases applies : u.grantApplies h.slot h.fleet h.span = true
    · obtain ⟨queued, e, rest, queue, head⟩ := State.grantApplies_head applies
      rw [if_pos applies]
      exact (results.applyGrant queued queue head h.span a).rename rfl rfl rfl rfl
    · rw [if_neg applies]
      exact results.rename rfl rfl rfl rfl

/-- An empty table, line order and queue agree. -/
theorem State.placesHold_of_cleared (trucks : s.trucks = Vector.replicate 12 {}) (line : s.line = [])
    (queue : s.queue = []) (count : s.phantomCount = 0) : s.PlacesHold := by
  have empty (k : Slot) : s.truck k = {} := by
    rw [State.truck_def, trucks]
    exact Vector.getElem_replicate _
  refine ⟨fun k => ?_, ⟨fun k _ => empty k, fun k occupied => ?_, fun j k f held => ?_⟩, ?_⟩
  · rw [line, queue, empty]
    exact ⟨rfl, rfl⟩
  · rw [empty] at occupied
    exact absurd rfl occupied
  · rw [State.Holds, empty] at held
    exact absurd rfl held.1
  · rw [State.lineInOrder_iff, line, count]
    exact ⟨.nil, rfl⟩

theorem State.clearDynamic_places (s : State) : s.clearDynamic.PlacesHold :=
  State.placesHold_of_cleared rfl rfl rfl rfl

theorem State.PlacesHold.inputsRise (holds : s.PlacesHold) : s.inputsRise.PlacesHold := by
  have frame := s.inputsRise_spec.2
  generalize s.inputsRise = t at frame
  rw [frame]
  exact holds.rename rfl rfl rfl rfl

theorem State.PlacesHold.endCold (holds : s.PlacesHold) : s.endCold.PlacesHold := by
  refine State.PlacesHold.inputsRise ?_
  unfold State.loadStored
  split <;> exact holds.rename rfl rfl rfl rfl

theorem State.PlacesHold.endWarm (holds : s.PlacesHold) : s.endWarm.PlacesHold := by
  refine State.PlacesHold.inputsRise ?_
  have settled : ({ s with warmHold := false } : State).settleSection.PlacesHold := holds.rename rfl rfl rfl rfl
  generalize ({ s with warmHold := false } : State).settleSection = u at settled
  have frame := u.settleBars_spec.2
  generalize u.settleBars = t at frame
  rw [frame]
  exact settled.rename rfl rfl rfl rfl

theorem exec_resets_places (holds : s.PlacesHold) {c : Instr} {t : State} (next : exec c s = .next t)
    (reset : c ∈ [.coldReset, .coldResetEnd, .warmRstNAssert, .warmResetEnd, .warmResetAfterAck]) : t.PlacesHold := by
  have cleared := s.clearDynamic_places
  simp only [List.mem_cons, List.not_mem_nil, or_false] at reset
  rcases reset with rfl | rfl | rfl | rfl | rfl <;> obtain rfl := Host.Outcome.next.inj next
  · exact cleared.rename rfl rfl rfl rfl
  · split
    · split
      · exact s.endCold.clearDynamic_places.rename rfl rfl rfl rfl
      · exact holds.endCold
    · exact holds
  · split
    · exact holds.rename rfl rfl rfl rfl
    · split
      · exact holds
      · exact cleared.rename rfl rfl rfl rfl
  · have released : ({ s with warmPin := false } : State).PlacesHold := holds.rename rfl rfl rfl rfl
    split
    · exact released.endWarm
    · exact released
  · split
    · exact cleared.endWarm
    · exact holds

end Events

end Sys2Proof.Machine

namespace Sys2Proof.Machine

/-! ### Rules that write nothing that the places speak of -/

section Rules
variable (s : State)

theorem State.overdrawCheck_samePlaces (f : Feed) (b : Breaker) (output : Nat) :
    s.SamePlaces (s.overdrawCheck f b output) := by
  unfold State.overdrawCheck
  dsimp only
  split
  · split
    · exact (s.samePlaces_setSide f _).trans (State.samePlaces_setFaults _ _)
    · exact s.samePlaces_setSide f _
  · exact .refl s

theorem State.takeReport_samePlaces (f : Feed) (volts capacity : Nat) (b : Breaker) (output : Nat) :
    s.SamePlaces (s.takeReport f volts capacity b output) := by
  cases b with
  | closed => exact s.samePlaces_setSide f _
  | opened =>
    unfold State.takeReport
    dsimp only
    split
    · exact (s.samePlaces_setSide f _).trans (State.samePlaces_setEvents _ _)
    · exact s.samePlaces_setSide f _

theorem feedReportRule_samePlaces (f : Feed) (ident : Byte) (volts capacity : U16) (breaker : Byte) (output : U16) :
    s.SamePlaces (feedReportRule f ident volts capacity breaker output s).1 := by
  unfold feedReportRule
  split
  · exact .refl s
  · exact (s.overdrawCheck_samePlaces f _ _).trans (State.takeReport_samePlaces _ f _ _ _ _)

theorem setSpanRule_samePlaces (index : Byte) (length : U16) (resistance : Byte) (flag : Bool) :
    s.SamePlaces (setSpanRule index length resistance flag s).1 := by
  unfold setSpanRule
  split
  · exact .refl s
  · split <;> exact State.samePlaces_of_eq rfl rfl rfl rfl

theorem setSpanCountRule_samePlaces (count : Byte) (flag : Bool) :
    s.SamePlaces (setSpanCountRule count flag s).1 := by
  unfold setSpanCountRule
  split <;> exact State.samePlaces_of_eq rfl rfl rfl rfl

theorem setParamRule_samePlaces (number : Byte) (value : U16) (flag : Bool) :
    s.SamePlaces (setParamRule number value flag s).1 := by
  unfold setParamRule
  split
  · exact .refl s
  · split <;> exact State.samePlaces_of_eq rfl rfl rfl rfl

theorem storeRule_samePlaces (flag : Bool) : s.SamePlaces (storeRule flag s).1 := by
  unfold storeRule
  split
  · exact .refl s
  · split <;> exact State.samePlaces_of_eq rfl rfl rfl rfl

theorem runRule_samePlaces (flag : Bool) : s.SamePlaces (runRule flag s).1 := by
  unfold runRule
  split <;> exact State.samePlaces_of_eq rfl rfl rfl rfl

theorem isoFromRule_samePlaces (a : Byte) : s.SamePlaces (isoFromRule a s).1 := by
  unfold isoFromRule
  split <;> exact State.samePlaces_of_eq rfl rfl rfl rfl

theorem isoToRule_samePlaces (b : Byte) : s.SamePlaces (isoToRule b s).1 := by
  unfold isoToRule
  split
  · exact State.samePlaces_of_eq rfl rfl rfl rfl
  · split
    · split <;> exact State.samePlaces_of_eq rfl rfl rfl rfl
    · exact State.samePlaces_of_eq rfl rfl rfl rfl

theorem restoreRule_samePlaces (a b : Byte) (flag : Bool) : s.SamePlaces (restoreRule a b flag s).1 := by
  unfold restoreRule
  split
  · refine List.foldlRecOn _ _ (motive := fun t : State => s.SamePlaces t) (.refl s) fun t same i _ => same.trans ?_
    exact State.samePlaces_of_eq rfl rfl rfl rfl
  · exact .refl s

theorem querySectionRule_samePlaces (part : Byte) : s.SamePlaces (querySectionRule part s).1 := by
  unfold querySectionRule
  split <;> exact State.samePlaces_of_eq rfl rfl rfl rfl

end Rules

/-! ### Every command and every step keeps the places (O57) -/

theorem exec_request_places {c : Instr} {s t : State} (isRequest : (requestParts c).isSome = true)
    (next : exec c s = .next t) (holds : s.PlacesHold) : t.PlacesHold := by
  have request {p : Port} {rule : State → State × Answer} (rules : (rule s).1.PlacesHold) :
      (s.request p rule).PlacesHold := State.placesHold_onPorts.request (fun _ => rules) p holds
  have same {p : Port} {rule : State → State × Answer} (rules : s.SamePlaces (rule s).1) :
      (s.request p rule).PlacesHold := request (rules.holds holds)
  have abandoned : ({ s with isoSeq := .none } : State).PlacesHold := holds.rename rfl rfl rfl rfl
  have sameAbandoned {rule : Bool → State → State × Answer}
      (rules : ({ s with isoSeq := .none } : State).SamePlaces (rule s.isoBusy { s with isoSeq := .none }).1) :
      (s.request .dispatch fun s => s.abandoning rule).PlacesHold := request (rules.holds abandoned)
  cases c
  all_goals first | exact absurd isRequest Bool.false_ne_true | obtain rfl := Host.Outcome.next.inj next
  case join f => exact request (joinRule_places holds f)
  case status n f u i m w => exact request (statusRule_places holds n f u i m w)
  case raise n f x r i => exact request (raiseRule_places holds n f x r i)
  case cancel n f => exact request (cancelRule_places holds n f)
  case leave n f => exact request (leaveRule_places holds n f)
  case feedReport f i v c b o => exact same (feedReportRule_samePlaces s f i v c b o)
  case shed f _ => exact same (s.samePlaces_setSide f _)
  case shedRelease f => exact same (s.samePlaces_setSide f _)
  case setSpan i l r => exact sameAbandoned (setSpanRule_samePlaces _ i l r _)
  case setSpanCount n => exact sameAbandoned (setSpanCountRule_samePlaces _ n _)
  case setParam n v => exact sameAbandoned (setParamRule_samePlaces _ n v _)
  case store => exact sameAbandoned (storeRule_samePlaces _ _)
  case run => exact sameAbandoned (runRule_samePlaces _ _)
  case stop => exact request (stopRule_places abandoned _)
  case isoFrom a => exact same (isoFromRule_samePlaces s a)
  case isoTo b => exact same (isoToRule_samePlaces s b)
  case isoApply => exact request (isoApplyRule_places holds)
  case restore a b => exact sameAbandoned (restoreRule_samePlaces _ a b _)
  case clearFaults => exact sameAbandoned (State.samePlaces_setFaults _ _)
  case clearPhantom n => exact request (clearPhantomRule_places abandoned n _)
  case evict n => exact request (evictRule_places abandoned n _)
  case clearCounters => exact sameAbandoned (State.samePlaces_of_eq rfl rfl rfl rfl)
  case warmReset => exact sameAbandoned (State.samePlaces_of_eq rfl rfl rfl rfl)
  case querySection n => exact same (querySectionRule_samePlaces s n)
  all_goals exact same (.refl s)

theorem exec_event_places {c : Instr} {s t : State} (isEvent : requestParts c = none) (other : onReceiver c = false)
    (next : exec c s = .next t) (holds : s.PlacesHold) : t.PlacesHold := by
  have whenDue {p : Prop} [Decidable p] {u : State} (taken : p → u.PlacesHold) :
      (if p then u else s).PlacesHold := by
    split
    next passed => exact taken passed
    next => exact holds
  have flagged {u : State} (places : u.PlacesHold) (e : EventFlags) : (u.setEvents e).PlacesHold :=
    (u.samePlaces_setEvents e).holds places
  have side (f : Feed) (x : FeedSide) : (s.setSide f x).PlacesHold := (s.samePlaces_setSide f x).holds holds
  cases c
  all_goals first
    | exact absurd isEvent (Option.some_ne_none _)
    | exact absurd other Bool.true_eq_false.mp
    | skip
  case coldReset | coldResetEnd | warmRstNAssert | warmResetEnd | warmResetAfterAck =>
    exact exec_resets_places holds next (by simp)
  case blankingDeadline j => exact exec_blankingDeadline_places holds j next
  case overlongDeadline j => exact exec_overlongDeadline_places holds j next
  case nextJointDeadline r => exact exec_nextJointDeadline_places holds r next
  case lostDeadline r => exact exec_lostDeadline_places holds r next
  case phantomExpiry n => exact exec_phantomExpiry_places holds n next
  all_goals obtain rfl := Host.Outcome.next.inj next
  case storeWriteEnd agrees =>
    split
    · exact holds
    · split <;> exact holds.rename rfl rfl rfl rfl
  case detectorRise j =>
    dsimp only
    split <;> exact holds.rename rfl rfl rfl rfl
  case detectorFall j =>
    dsimp only
    split <;> exact holds.rename rfl rfl rfl rfl
  case feedLateDeadline f => exact whenDue fun _ => flagged (side f _) _
  case feedOutDeadline f => exact whenDue fun _ => flagged (side f _) _
  case shedDeadline f => exact whenDue fun _ => flagged (side f _) _
  case idleDeadline k => exact whenDue fun ⟨_, standby⟩ => holds.freeStandby standby
  case holdoffExpiry k =>
    refine whenDue fun _ => (State.samePlaces_setTruck (x := { s.truck k with holdoff := none })
      ⟨rfl, rfl, Iff.rfl, id, fun _ empty => ?_⟩).holds holds
    rw [empty]
  case raiseConfirmDeadline k =>
    exact whenDue fun ⟨_, state⟩ => flagged (holds.takeForPhantom (by rw [state]; rfl) _ _ _) _
  case lowerConfirmDeadline k =>
    exact whenDue fun ⟨_, state⟩ => flagged ((State.enterSilent_samePlaces (by rw [state]; rfl)).holds holds) _
  case cutAcknowledgeDeadline k =>
    exact whenDue fun _ => (State.lowerOrder_samePlaces _ k).holds (flagged holds _)
  case silenceDeadline k =>
    refine whenDue fun ⟨_, state⟩ => flagged ((State.enterSilent_samePlaces ?_).holds holds) _
    simp only [List.mem_cons, List.not_mem_nil, or_false] at state
    rcases state with state | state | state <;> rw [state] <;> rfl
  case silentHoldDeadline k =>
    exact whenDue fun ⟨_, state⟩ => flagged (holds.takeForPhantom (by rw [state]; rfl) _ _ _) _
  case queueWaitDeadline k => exact whenDue fun ⟨_, queued⟩ => holds.dequeue queued
  case spacingDeadline => exact whenDue fun _ => holds.rename rfl rfl rfl rfl
  case cycleDeadline =>
    have marked := s.markSnapshot_samePlaces.holds holds
    refine whenDue fun _ => ?_
    generalize s.markSnapshot = u at marked
    exact marked.rename rfl rfl rfl rfl
  case commit =>
    split
    · exact holds
    next x _ =>
      split
      · exact holds.commitOf x
      · exact holds.rename rfl rfl rfl rfl

theorem exec_places {c : Instr} {s t : State} (next : exec c s = .next t) (holds : s.PlacesHold) : t.PlacesHold := by
  refine State.placesHold_onPorts.exec (fun c s t other next holds => ?_) next holds
  cases parts : requestParts c with
  | none => exact exec_event_places parts other next holds
  | some _ => exact exec_request_places (by rw [parts]; rfl) next holds

theorem step_places {s t : State} (next : step s = .next t) (holds : s.PlacesHold) : t.PlacesHold := by
  unfold step at next
  split at next
  · obtain rfl := Host.Outcome.next.inj next
    rcases tick_cases s with ⟨-, same⟩ | ⟨-, l, ⟨-, -, eq⟩ | ⟨-, -, eq⟩⟩
    · rwa [same]
    all_goals
      rw [eq]
      exact holds.rename rfl rfl rfl rfl
  · exact exec_places next (holds.rename rfl rfl rfl rfl)

/-- Twelve slots with at most one entry each, and at most four phantoms. -/
theorem State.PlacesHold.line_length {s : State} (holds : s.PlacesHold) : s.line.length ≤ 16 := by
  obtain ⟨agree, -, -, phantoms, -⟩ := holds
  have trucks : s.line.countP (fun e => !e.isPhantom) ≤ 12 := calc
    _ = sumOver fun k : Slot => s.line.countP fun e => e.isTruckOf k := trucksIn_eq_sum _
    _ ≤ sumOver fun _ : Slot => 1 := sumOver_le fun k => by rw [(agree k).1]; split <;> omega
    _ = 12 := rfl
  have split := List.length_eq_countP_add_countP Entry.isPhantom (l := s.line)
  simp only [Bool.not_eq_true, Bool.decide_eq_false] at split
  have : phantomsIn s.line = s.line.countP Entry.isPhantom := rfl
  omega

theorem State.PlacesHold.queue_length {s : State} (holds : s.PlacesHold) : s.queue.length ≤ 12 := calc
  s.queue.length = sumOver fun k : Slot => s.queue.countP fun e => e.slot == k := queue_length_eq_sum _
  _ ≤ sumOver fun _ : Slot => 1 := sumOver_le fun k => by rw [(holds.1 k).2]; split <;> omega
  _ = 12 := rfl

/-- Settles O57: every rule writes a truck's record together with its places in the line order and in the queue. -/
theorem stepKeepsPlaces : Obligations.StepKeepsPlaces :=
  ⟨fun _ _ holds next => step_places next holds, fun _ holds => ⟨holds.line_length, holds.queue_length⟩⟩

end Sys2Proof.Machine

namespace Sys2Proof.Machine

/-! ### Commands out of their place (O4) -/

section OutOfPlace
variable {s : State}

theorem State.takeRequest_of_inReset (reset : s.inReset = true) (i : Instr) : s.takeRequest i = s := by
  cases i <;> simp only [State.takeRequest, State.request_of_inReset _ reset]

theorem State.not_hears_of_inReset (reset : s.inReset = true) (p : Port) : s.hears p = false := by
  simp [State.hears, reset]

theorem State.not_loses_of_inReset (reset : s.inReset = true) (p : Port) : s.loses p = false := by
  simp [State.loses, reset]

theorem exec_request_of_inReset (reset : s.inReset = true) {i : Instr} (request : (requestParts i).isSome = true) :
    exec i s = .next s := by
  rw [exec_of_takeRequest s request, State.takeRequest_of_inReset reset]

theorem exec_frameStart_of_inReset (reset : s.inReset = true) (p : Port) (b : RxByte) :
    exec (.frameStart p b) s = .next s := by
  show execFrameStart p b s = _
  simp [execFrameStart, State.not_hears_of_inReset reset, State.not_loses_of_inReset reset]

theorem exec_frameDiscarded_of_deaf {p : Port} (deaf : s.hears p = false) (w : Discard) :
    exec (.frameDiscarded p w) s = .next s := by
  show execFrameDiscarded p w s = _
  simp [execFrameDiscarded, deaf]

/-- No frame in progress and no lost request has run out of its time (R158, R159). -/
theorem exec_frameTimeout_early {p : Port} (frame : ∀ a, (s.port p).rx.start = some a → (s.now - a).toNat < 50)
    (lost : ∀ a, (s.port p).lost.head? = some a → (s.now - a).toNat < 50) : exec (.frameTimeout p) s = .next s := by
  have early : (s.port p).frameDue s.now ≠ true := by
    rw [Ne, PortState.frameDue_iff]
    rintro (⟨a, start, old⟩ | ⟨a, start, old⟩)
    · exact absurd (frame a start) (by omega)
    · exact absurd (lost a start) (by omega)
  obtain ⟨inTime, lostInTime⟩ := Bool.or_eq_false_iff.1 (Bool.eq_false_iff.2 early)
  show execFrameTimeout p s = _
  rw [execFrameTimeout, inTime, lostInTime]
  rfl

theorem exec_frameDiscarded_lengthByte {b : Byte} (short : b.toNat ≤ 40) (p : Port) :
    exec (.frameDiscarded p (.lengthByte b)) s = .next s := by
  show execFrameDiscarded p (.lengthByte b) s = _
  simp [execFrameDiscarded, Nat.not_lt.2 short]

theorem exec_frameDiscarded_missingStop {p : Port} (hunt : (s.port p).rx = .hunt) :
    exec (.frameDiscarded p .missingStop) s = .next s := by
  show execFrameDiscarded p .missingStop s = _
  simp [execFrameDiscarded, hunt]

/-- The frame of a request passes its examination, and is not discarded (R160; log 9). -/
theorem exec_frameDiscarded_request {i : Instr} {p : Port} {k : ReqKind} {payload : List Byte}
    (parts : requestParts i = some (p, k, payload)) :
    exec (.frameDiscarded p (.complete k.code payload (frameCheck k.code payload))) s = .next s := by
  show execFrameDiscarded p (.complete k.code payload (frameCheck k.code payload)) s = _
  simp [execFrameDiscarded, examine_of_requestParts parts]

theorem exec_detectorRise_present {j : Joint} (present : (s.channel j).state = .present) :
    exec (.detectorRise j) s = .next { s with det := s.det.set j.val true j.isLt } := by
  have seen : (s.channel j).risen s.now s.params.overlong = s.channel j := by rw [Channel.risen, present]
  have same : (s.setDet j true).setChannel j (s.channel j) = s.setDet j true := by
    simp [State.setDet, State.setChannel, State.channel]
  show execDetectorRise j s = _
  simp only [execDetectorRise, seen, same, ite_self]
  rfl

theorem exec_detectorFall_absent {j : Joint} (absent : (s.channel j).state ≠ .present) :
    exec (.detectorFall j) s = .next { s with det := s.det.set j.val false j.isLt } := by
  show execDetectorFall j s = _
  rw [execDetectorFall]
  simp only [absent, ne_eq, not_false_eq_true, or_true, if_true]
  rfl

theorem exec_overlongDeadline_idle {j : Joint}
    (out : ¬(due (s.channel j).overlong s.now = true ∧ (s.channel j).state ≠ .idle)) :
    exec (.overlongDeadline j) s = .next s := by
  show execOverlongDeadline j s = _
  rw [execOverlongDeadline]
  by_cases passed : due (s.channel j).overlong s.now = true
  · have idle : (s.channel j).state = .idle := by
      refine Classical.byContradiction fun busy => ?_
      exact out ⟨passed, busy⟩
    simp [idle]
  · simp [passed]

theorem State.entry_mem {r : EntryRef} {e : Entry} (found : s.entry r = some e) : e ∈ s.line :=
  List.mem_of_find?_eq_some found

theorem State.entry_isRef {r : EntryRef} {e : Entry} (found : s.entry r = some e) : e.isRef r = true :=
  List.find?_some (p := fun e : Entry => e.isRef r) found

theorem exec_nextJointDeadline_out {r : EntryRef}
    (out : ∀ e ∈ s.line, e.isRef r = true → due e.nextJoint s.now = false ∨ e.conf = .stale) :
    exec (.nextJointDeadline r) s = .next s := by
  refine congrArg Host.Outcome.next ?_
  split
  · rfl
  next e found =>
    refine if_neg fun ⟨passed, known⟩ => ?_
    rcases out e (State.entry_mem found) (State.entry_isRef found) with ahead | stale
    · exact absurd (ahead.symm.trans passed) Bool.false_ne_true
    · exact nomatch known.symm.trans stale

theorem exec_lostDeadline_out {r : EntryRef}
    (out : ∀ e ∈ s.line, e.isRef r = true → due e.lost s.now = false ∨ e.conf = .known) :
    exec (.lostDeadline r) s = .next s := by
  refine congrArg Host.Outcome.next ?_
  split
  · rfl
  next e found =>
    refine if_neg fun ⟨passed, stale⟩ => ?_
    rcases out e (State.entry_mem found) (State.entry_isRef found) with ahead | known
    · exact absurd (ahead.symm.trans passed) Bool.false_ne_true
    · exact nomatch known.symm.trans stale

theorem exec_phantomExpiry_out {n : PhantomNo}
    (out : ∀ e ∈ s.line, e.isPhantomNo n = true → due e.expiry? s.now = false) :
    exec (.phantomExpiry n) s = .next s := by
  refine congrArg Host.Outcome.next ?_
  split
  · rfl
  next e found =>
    refine if_neg fun passed => ?_
    exact absurd ((out e (State.entry_mem found) (State.entry_isRef found)).symm.trans passed) Bool.false_ne_true

theorem exec_commit_idle (idle : s.inFlight = none) : exec .commit s = .next s := by
  show execCommit s = _
  rw [execCommit, idle]

theorem exec_storeWriteEnd_idle (idle : s.store = .idle) (agrees : Bool) : exec (.storeWriteEnd agrees) s = .next s := by
  show execStoreWriteEnd agrees s = _
  rw [execStoreWriteEnd, idle]

end OutOfPlace

/-- Settles O4: each command runs behind its own condition, and does nothing where that does not stand. -/
theorem commandOutOfPlaceChangesNothing : Obligations.CommandOutOfPlaceChangesNothing := by
  intro s
  have unlessDue {p : Prop} [Decidable p] {t : State} (out : ¬p) :
      (Host.Outcome.next (if p then t else s) : Host.Outcome State Fault Refusal) = .next s := by rw [if_neg out]
  have unset {b : Bool} (out : b = false) : ¬b = true := by rw [out]; exact Bool.false_ne_true
  exact ⟨fun _ _ _ _ parts reset => exec_request_of_inReset reset (by rw [parts]; rfl),
    fun p b reset => exec_frameStart_of_inReset reset p b,
    fun _ w deaf => exec_frameDiscarded_of_deaf deaf w,
    fun _ frame lost => exec_frameTimeout_early frame lost,
    fun p _ short => exec_frameDiscarded_lengthByte short p,
    fun _ hunt => exec_frameDiscarded_missingStop hunt,
    fun _ _ _ _ parts => exec_frameDiscarded_request parts,
    fun cold warm => by show execWarmRstNAssert s = _; simp [execWarmRstNAssert, cold, warm],
    fun _ present => exec_detectorRise_present present,
    fun _ absent => exec_detectorFall_absent absent,
    fun _ out => unlessDue out,
    fun _ out => exec_overlongDeadline_idle out,
    fun _ out => unlessDue out, fun _ out => unlessDue out, fun _ out => unlessDue out, fun _ out => unlessDue out,
    fun _ out => unlessDue (unset out), fun _ out => unlessDue out, fun _ out => unlessDue out,
    fun _ out => unlessDue out, fun _ out => unlessDue out, fun _ out => unlessDue out, fun _ out => unlessDue out,
    fun out => unlessDue (unset out),
    fun _ out => exec_nextJointDeadline_out out,
    fun _ out => exec_lostDeadline_out out,
    fun _ out => exec_phantomExpiry_out out,
    fun out => unlessDue out,
    fun idle => exec_commit_idle idle,
    fun idle agrees => exec_storeWriteEnd_idle idle agrees,
    fun cold => unlessDue (unset cold),
    fun asked => unlessDue (unset asked)⟩

/-! ### The tick and the due events (O3) -/

section Due
variable (s : State)

theorem State.mem_dueChannel (j : Joint) (c : Instr) :
    c ∈ s.dueChannel j ↔
      (due (s.channel j).blanking s.now = true ∧ (s.channel j).state = .trailing) ∧ c = .blankingDeadline j ∨
        (due (s.channel j).overlong s.now = true ∧ (s.channel j).state ≠ .idle) ∧ c = .overlongDeadline j := by
  simp only [State.dueChannel, List.mem_append, mem_dueWhen, Bool.and_eq_true, beq_iff_eq, bne_iff_ne]

theorem State.mem_dueFeed (f : Feed) (c : Instr) :
    c ∈ s.dueFeed f ↔
      (due (s.side f).feed.lateDeadline s.now = true ∧ (s.side f).feed.state = .inService) ∧ c = .feedLateDeadline f ∨
        (due (s.side f).feed.outDeadline s.now = true ∧ (s.side f).feed.state = .late) ∧ c = .feedOutDeadline f ∨
        (due (s.side f).shed.deadline s.now = true ∧ (s.side f).shed.state = .pending) ∧ c = .shedDeadline f := by
  simp only [State.dueFeed, List.mem_append, mem_dueWhen, Bool.and_eq_true, beq_iff_eq, or_assoc]

/-- The line-order states in which a truck has a silence deadline (R72, R73). -/
theorem TruckState.silenceable_iff (x : TruckState) :
    (x ≠ .silent ∧ x.inLine = true) ↔ x ∈ [.raisePending, .drawing, .lowering] := by
  cases x <;> simp [TruckState.inLine]

theorem State.mem_dueTruck (k : Slot) (c : Instr) :
    c ∈ s.dueTruck k ↔
      (due (s.truck k).idle s.now = true ∧ (s.truck k).state = .standby) ∧ c = .idleDeadline k ∨
        due (s.truck k).holdoff s.now = true ∧ c = .holdoffExpiry k ∨
        (due (s.truck k).raiseConfirm s.now = true ∧ (s.truck k).state = .raisePending) ∧ c = .raiseConfirmDeadline k ∨
        (due (s.truck k).lowerConfirm s.now = true ∧ (s.truck k).state = .lowering) ∧ c = .lowerConfirmDeadline k ∨
        (due (s.truck k).cutAck s.now = true ∧ (s.truck k).state = .drawing) ∧ c = .cutAcknowledgeDeadline k ∨
        (due (s.truck k).silence s.now = true ∧ (s.truck k).state ∈ [.raisePending, .drawing, .lowering]) ∧
          c = .silenceDeadline k ∨
        (due (s.truck k).silentHold s.now = true ∧ (s.truck k).state = .silent) ∧ c = .silentHoldDeadline k ∨
        (due (s.truck k).queueWait s.now = true ∧ (s.truck k).state = .queued) ∧ c = .queueWaitDeadline k := by
  rw [← TruckState.silenceable_iff]
  simp only [State.dueTruck, List.mem_append, mem_dueWhen, Bool.and_eq_true, beq_iff_eq, bne_iff_ne, or_assoc, and_assoc]

theorem State.mem_dueWarm (c : Instr) :
    c ∈ s.dueWarm ↔ (s.warmAsked = true ∧ ∀ x, s.dispatchPort.tx = some x →
      x.ends s.now (Config.answerEnds s.choice .dispatch) = true) ∧ c = .warmResetAfterAck := by
  unfold State.dueWarm
  rw [mem_dueWhen, Bool.and_eq_true]
  cases s.dispatchPort.tx <;> simp

/-- An answer ends in one of the two counts next to the figure of R158. -/
theorem Sending.ends_bounds (x : Sending) (now : Time) (early : Bool) :
    (x.answer.frame.length * 10000 ≤ (now - x.since).toNat * 57600 → x.ends now early = true) ∧
      (x.ends now early = true → x.answer.frame.length * 10000 / 57600 ≤ (now - x.since).toNat) := by
  unfold Sending.ends elapsed
  generalize x.answer.frame.length = bytes
  generalize (now - x.since).toNat = sent
  simp only [Bool.or_eq_true, Bool.and_eq_true, decide_eq_true_iff]
  omega

end Due

/-- The condition under which the tick puts a command in the queue. -/
def State.isDue (s : State) : Instr → Prop
  | .blankingDeadline j => due (s.channel j).blanking s.now = true ∧ (s.channel j).state = .trailing
  | .overlongDeadline j => due (s.channel j).overlong s.now = true ∧ (s.channel j).state ≠ .idle
  | .feedLateDeadline f => due (s.side f).feed.lateDeadline s.now = true ∧ (s.side f).feed.state = .inService
  | .feedOutDeadline f => due (s.side f).feed.outDeadline s.now = true ∧ (s.side f).feed.state = .late
  | .shedDeadline f => due (s.side f).shed.deadline s.now = true ∧ (s.side f).shed.state = .pending
  | .idleDeadline k => due (s.truck k).idle s.now = true ∧ (s.truck k).state = .standby
  | .holdoffExpiry k => due (s.truck k).holdoff s.now = true
  | .raiseConfirmDeadline k => due (s.truck k).raiseConfirm s.now = true ∧ (s.truck k).state = .raisePending
  | .lowerConfirmDeadline k => due (s.truck k).lowerConfirm s.now = true ∧ (s.truck k).state = .lowering
  | .cutAcknowledgeDeadline k => due (s.truck k).cutAck s.now = true ∧ (s.truck k).state = .drawing
  | .silenceDeadline k =>
    due (s.truck k).silence s.now = true ∧ (s.truck k).state ∈ [.raisePending, .drawing, .lowering]
  | .silentHoldDeadline k => due (s.truck k).silentHold s.now = true ∧ (s.truck k).state = .silent
  | .queueWaitDeadline k => due (s.truck k).queueWait s.now = true ∧ (s.truck k).state = .queued
  | .nextJointDeadline r => ∃ e ∈ s.line, e.isRef r = true ∧ due e.nextJoint s.now = true ∧ e.conf = .known
  | .lostDeadline r => ∃ e ∈ s.line, e.isRef r = true ∧ due e.lost s.now = true ∧ e.conf = .stale
  | .phantomExpiry n => ∃ e ∈ s.line, ∃ current expiry origin,
    e.kind = .phantom n current expiry origin ∧ due (some expiry) s.now = true
  | .spacingDeadline => due s.spacing s.now = true
  | .cycleDeadline => due s.cycle s.now = true ∧ s.sect = .running
  | .frameTimeout p => (s.port p).frameDue s.now = true
  | .answerSent p => ∃ x, (s.port p).tx = some x ∧ x.ends s.now (Config.answerEnds s.choice p) = true
  | .commit => ∃ x, s.inFlight = some x ∧ (40 ≤ (s.now - x.time).toNat ∨ Config.commitEnds s.choice = true)
  | .storeWriteEnd agrees => ∃ t, s.store = .writing t ∧
    (400 ≤ (s.now - t).toNat ∨ Config.storeEnds s.choice = true) ∧ agrees = Config.storeAgrees s.choice
  | .warmResetAfterAck => s.warmAsked = true ∧
    ∀ x, s.dispatchPort.tx = some x → x.ends s.now (Config.answerEnds s.choice .dispatch) = true
  | _ => False

/-- An event stands among the due ones exactly under its condition. -/
theorem State.mem_dueEvents_iff (s : State) (c : Instr) : c ∈ s.dueEvents ↔ s.isDue c := by
  rw [State.mem_dueEvents]
  simp only [State.mem_dueWarm, State.mem_duePort, State.mem_dueChannel, State.mem_dueFeed, State.mem_dueTruck,
    State.mem_dueEntry, State.mem_dueCommit, State.mem_dueStore]
  cases c <;> simp only [State.isDue, Entry.isRef_iff, reduceCtorEq, and_false, and_true, exists_false, false_or, or_false,
    exists_eq_right', Instr.frameTimeout.injEq, Instr.storeWriteEnd.injEq, Instr.blankingDeadline.injEq,
    Instr.overlongDeadline.injEq, Instr.feedLateDeadline.injEq, Instr.feedOutDeadline.injEq, Instr.shedDeadline.injEq,
    Instr.idleDeadline.injEq, Instr.holdoffExpiry.injEq, Instr.raiseConfirmDeadline.injEq,
    Instr.lowerConfirmDeadline.injEq, Instr.cutAcknowledgeDeadline.injEq, Instr.silenceDeadline.injEq,
    Instr.silentHoldDeadline.injEq, Instr.queueWaitDeadline.injEq]
  case nextJointDeadline r | lostDeadline r =>
    exact exists_congr fun e => and_congr_right fun _ =>
      ⟨fun ⟨passed, conf, same⟩ => ⟨by injection same with same; exact same.symm, passed, conf⟩,
        fun ⟨same, passed, conf⟩ => ⟨passed, conf, by rw [same]⟩⟩
  case phantomExpiry n =>
    refine exists_congr fun e => and_congr_right fun _ => ⟨?_, ?_⟩
    · rintro ⟨m, u, x, o, kind, passed, same⟩
      obtain rfl := Instr.phantomExpiry.inj same
      exact ⟨u, x, o, kind, passed⟩
    · rintro ⟨u, x, o, kind, passed⟩
      exact ⟨n, u, x, o, kind, passed, rfl⟩
  case answerSent p =>
    constructor
    · rintro ⟨q, x, sending, ends, same⟩
      obtain rfl := Instr.answerSent.inj same
      exact ⟨x, sending, ends⟩
    · rintro ⟨x, sending, ends⟩
      exact ⟨p, x, sending, ends, rfl⟩

section Tick
variable {s : State}

/-- What the step does on an empty queue (logs 2 and 3). -/
theorem step_tick (empty : s.pending = []) :
    (s.coldReset = true → step s = .next s) ∧
      (s.coldReset = false → s.dueEvents ≠ [] →
        ∃ l, l.Perm s.dueEvents ∧ step s = .next { s with choice := s.choice + 1, pending := l }) ∧
      (s.coldReset = false → s.dueEvents = [] →
        ∃ l, l.Perm ({ s with now := s.now + 1, choice := s.choice + 1 } : State).dueEvents ∧
          step s = .next { s with now := s.now + 1, choice := s.choice + 1, pending := l }) := by
  have tick : step s = .next s.tick := by rw [step, empty]
  rw [tick]
  rcases tick_cases s with ⟨cold, same⟩ | ⟨notCold, l, ⟨some, perm, eq⟩ | ⟨none, perm, eq⟩⟩
  · rw [same]
    exact ⟨fun _ => rfl, fun notCold => (nomatch cold.symm.trans notCold),
      fun notCold => (nomatch cold.symm.trans notCold)⟩
  · rw [eq]
    exact ⟨fun cold => (nomatch cold.symm.trans notCold), fun _ _ => ⟨l, perm, rfl⟩, fun _ none => absurd none some⟩
  · rw [eq]
    exact ⟨fun cold => (nomatch cold.symm.trans notCold), fun _ some => absurd none some, fun _ _ => ⟨l, perm, rfl⟩⟩

theorem State.isDue_commit :
    (∀ x, s.inFlight = some x → 40 ≤ (s.now - x.time).toNat → s.isDue .commit) ∧
      (s.isDue .commit → s.inFlight ≠ none) :=
  ⟨fun x computing old => ⟨x, computing, .inl old⟩, fun ⟨_, computing, _⟩ idle => nomatch computing.symm.trans idle⟩

theorem State.isDue_storeWriteEnd :
    (∀ t, s.store = .writing t → 400 ≤ (s.now - t).toNat → ∃ agrees, s.isDue (.storeWriteEnd agrees)) ∧
      ∀ agrees, s.isDue (.storeWriteEnd agrees) → s.store ≠ .idle :=
  ⟨fun t writing old => ⟨_, t, writing, .inl old, rfl⟩, fun _ ⟨_, writing, _⟩ idle => nomatch writing.symm.trans idle⟩

theorem State.isDue_answerSent (p : Port) :
    ((s.port p).tx = none → ¬s.isDue (.answerSent p)) ∧
      ∀ x, (s.port p).tx = some x →
        (x.answer.frame.length * 10000 ≤ (s.now - x.since).toNat * 57600 → s.isDue (.answerSent p)) ∧
          (s.isDue (.answerSent p) → x.answer.frame.length * 10000 / 57600 ≤ (s.now - x.since).toNat) := by
  refine ⟨fun idle => ?_, fun x sending => ⟨fun old => ?_, ?_⟩⟩
  · rintro ⟨_, sending, -⟩
    exact nomatch idle.symm.trans sending
  · exact ⟨x, sending, (x.ends_bounds _ _).1 old⟩
  · rintro ⟨y, same, ends⟩
    obtain rfl := Option.some.inj (sending.symm.trans same)
    exact (x.ends_bounds _ _).2 ends

/-- A requested warm reset begins with the end of its ACK (R157). -/
theorem State.isDue_warmResetAfterAck :
    (s.isDue .warmResetAfterAck → s.warmAsked = true) ∧
      (s.warmAsked = true → s.dispatchPort.tx = none → s.isDue .warmResetAfterAck) ∧
      (s.warmAsked = true → s.dispatchPort.tx ≠ none →
        (s.isDue .warmResetAfterAck ↔ s.isDue (.answerSent .dispatch))) := by
  refine ⟨fun due => due.1, fun asked idle => ⟨asked, fun x sending => nomatch idle.symm.trans sending⟩,
    fun asked sending => ?_⟩
  obtain ⟨x, tx⟩ := Option.ne_none_iff_exists'.1 sending
  have port : (s.port .dispatch).tx = some x := tx
  simp only [State.isDue, asked, true_and, tx, port, Option.some.injEq, forall_eq', exists_eq_left']

/-- The tick queues no request, no byte, no pin and no detector edge. -/
theorem State.not_isDue_of_outside :
    (∀ i, (requestParts i).isSome = true → ¬s.isDue i) ∧
      ¬s.isDue .coldReset ∧ ¬s.isDue .coldResetEnd ∧ ¬s.isDue .warmRstNAssert ∧ ¬s.isDue .warmResetEnd ∧
      ∀ p j b w, ¬s.isDue (.frameStart p b) ∧ ¬s.isDue (.frameDiscarded p w) ∧ ¬s.isDue (.detectorRise j) ∧
        ¬s.isDue (.detectorFall j) := by
  refine ⟨fun i request => ?_, id, id, id, id, fun _ _ _ _ => ⟨id, id, id, id⟩⟩
  cases i <;> first | exact id | exact absurd request Bool.false_ne_true

end Tick

/-- Settles O3: the tick by its three cases, and each event's condition read off the lists that the tick draws on. -/
theorem tickRaisesTimeBase : Obligations.TickRaisesTimeBase := by
  intro s
  refine ⟨step_tick, ?_⟩
  simp only [State.mem_dueEvents_iff]
  refine ⟨?_, ?_, ?_, ?_, ?_, ?_, ?_, ?_, State.isDue_commit, State.isDue_storeWriteEnd,
    State.isDue_answerSent, State.isDue_warmResetAfterAck, State.not_isDue_of_outside⟩
  all_goals simp only [State.isDue, ← due_iff, PortState.frameDue_iff, and_self, implies_true]

end Sys2Proof.Machine

namespace Sys2Proof.Machine

/-! ### Entries removed and spans emptied (O32) -/

theorem State.removeEntries_spanState (s : State) (q : Entry → Bool) (i : Nat) :
    (s.removeEntries q).spanState i =
      if s.spanState i = .pendingBar ∧ s.line.any (fun e => q e && e.span == i) = true ∧
          (s.line.filter fun e => !q e).any (fun e => e.span == i) = false then .barred
      else s.spanState i := by
  have told := (State.tellEmptied_fold (s.line.filter q) (s.putLine (s.line.filter fun e => !q e))).2 i
  rw [List.any_filter] at told
  exact told

/-- Settles O32: the spans that lose an entry are told in turn, the line order standing as the removal leaves it. -/
theorem removalTellsEmptiedSpans : Obligations.RemovalTellsEmptiedSpans := fun s q =>
  ⟨s.removeEntries_spanState q, s.removeEntries_frame q⟩

/-! ### What every command but COMMIT leaves of a truck's record -/

/-- The states in which a truck has an issued limit (R58, R59). -/
def TruckState.issuing (x : TruckState) : Bool :=
  match x with
  | .raisePending | .drawing | .silent => true
  | .free | .standby | .queued | .lowering => false

theorem TruckState.issuing_iff (x : TruckState) : x.issuing = true ↔ x ∈ [.raisePending, .drawing, .silent] := by
  cases x <;> simp [TruckState.issuing]

/-- A record written by anything but a commit: no limit is issued, no raise granted, and the currents stay in range. -/
structure Truck.Follows (t u : Truck) : Prop where
  issued : u.issued = 0 ∨ u.issued = t.issued ∧ (t.state.issuing = true → u.state.issuing = true)
  pending : u.state = .raisePending → t.state = .raisePending
  currents : t.CurrentsInRange → u.CurrentsInRange

theorem Truck.Follows.refl (t : Truck) : t.Follows t := ⟨.inr ⟨rfl, id⟩, id, id⟩

theorem Truck.Follows.trans {t u v : Truck} (a : t.Follows u) (b : u.Follows v) : t.Follows v where
  issued := by
    rcases b.issued with none | ⟨same, issuing⟩
    · exact .inl none
    · rcases a.issued with none | ⟨sameA, issuingA⟩
      · exact .inl (same.trans none)
      · exact .inr ⟨same.trans sameA, issuing ∘ issuingA⟩
  pending := a.pending ∘ b.pending
  currents := b.currents ∘ a.currents

theorem Truck.CurrentsInRange.congr {t u : Truck} (range : t.CurrentsInRange) (request : u.request = t.request)
    (iMin : u.iMin = t.iMin) (issued : u.issued = t.issued) (inForce : u.inForce = t.inForce)
    (measured : u.measured = t.measured) : u.CurrentsInRange := by
  unfold Truck.CurrentsInRange at *
  rwa [request, iMin, issued, inForce, measured]

/-- Neither the currents nor the state are written. -/
theorem Truck.follows_of_eq {t u : Truck} (state : u.state = t.state) (request : u.request = t.request)
    (iMin : u.iMin = t.iMin) (issued : u.issued = t.issued) (inForce : u.inForce = t.inForce)
    (measured : u.measured = t.measured) : t.Follows u :=
  ⟨.inr ⟨issued, fun issuing => state ▸ issuing⟩, fun pending => state ▸ pending,
    fun range => range.congr request iMin issued inForce measured⟩

/-- The state alone is written, to one that is not RAISE_PENDING and has limits issued wherever the old one had. -/
theorem Truck.follows_of_state {t u : Truck} (issuing : t.state.issuing = true → u.state.issuing = true)
    (other : u.state ≠ .raisePending) (request : u.request = t.request) (iMin : u.iMin = t.iMin)
    (issued : u.issued = t.issued) (inForce : u.inForce = t.inForce) (measured : u.measured = t.measured) :
    t.Follows u :=
  ⟨.inr ⟨issued, issuing⟩, fun pending => absurd pending other,
    fun range => range.congr request iMin issued inForce measured⟩

/-- The limit is taken back; the limit in force stays or goes with it. -/
theorem Truck.follows_of_no_limit {t u : Truck} (issued : u.issued = 0) (pending : u.state ≠ .raisePending)
    (request : u.request = t.request) (iMin : u.iMin = t.iMin) (inForce : u.inForce ≤ t.inForce)
    (measured : u.measured = t.measured) : t.Follows u where
  issued := .inl issued
  pending := fun raising => absurd raising pending
  currents := by
    rintro ⟨requestRange, iMinRange, -, inForceRange, measuredRange⟩
    rw [Truck.CurrentsInRange, request, iMin, issued, measured]
    exact ⟨requestRange, iMinRange, by decide, by omega, measuredRange⟩

theorem Truck.follows_standby (t : Truck) (idle : Time) (holdoff : Option Time) : t.Follows (t.standby idle holdoff) :=
  Truck.follows_of_no_limit rfl nofun rfl rfl (Nat.zero_le _) rfl

theorem Truck.follows_expelled (t : Truck) (idle : Time) (r : Reason) : t.Follows (t.expelled idle r) :=
  Truck.follows_of_no_limit rfl nofun rfl rfl (Nat.zero_le _) rfl

theorem Truck.follows_free (t : Truck) : t.Follows {} where
  issued := .inl rfl
  pending := nofun
  currents := fun _ => by unfold Truck.CurrentsInRange; decide

/-! ### What every command but COMMIT leaves of the state -/

/-- Requests in the queue stand in RUNNING alone, for spans of the section (R102, R148). -/
def State.QueueInSection (s : State) : Prop := ∀ e ∈ s.queue, s.sect = .running ∧ s.inSection e.span = true

/-- Entries stand on spans of the section, and a PENDING_BAR span has one (R80, R141, R143). -/
def State.WireTidy (s : State) : Prop :=
  (∀ e ∈ s.line, s.inSection e.span = true) ∧ ∀ i, s.spanState i = .pendingBar → s.occupied i = true

/-- The currents of the trucks and of the phantoms, with the current that a new phantom gets (R7, R58, R80). -/
def State.CurrentsHeld (s : State) : Prop :=
  s.params.phantomCurrent ≤ 3000 ∧ (∀ k, (s.truck k).CurrentsInRange) ∧ ∀ e ∈ s.line, e.current ≤ 3000

/-- A section has a span (R4). -/
def State.HasSpans (s : State) : Prop := ∀ n, s.n = some n → 0 < n

/-- What a step that writes neither the clock, the configuration nor a commit's results keeps: the setup, and of every
block what is promised of it. -/
structure State.Follows (s t : State) : Prop where
  setup : t.setup = s.setup
  trucks : ∀ k, (s.truck k).Follows (t.truck k)
  queue : s.QueueInSection → t.QueueInSection
  wire : s.HasSpans → s.WireTidy → t.WireTidy
  sequence : s.SequenceInSection → t.SequenceInSection
  currents : s.CurrentsHeld → t.CurrentsHeld
  counters : s.CountersBounded → t.CountersBounded

section Setup
variable {s t : State}

theorem State.sect_of_setup (setup : t.setup = s.setup) : t.sect = s.sect := congrArg Setup.sect setup
theorem State.params_of_setup (setup : t.setup = s.setup) : t.params = s.params := congrArg Setup.params setup

theorem State.n_of_setup (setup : t.setup = s.setup) : t.n = s.n := by
  have count : t.spanCount = s.spanCount := congrArg Setup.spanCount setup
  have spans : t.spans = s.spans := congrArg Setup.spans setup
  rw [State.n, State.n, State.valid, State.valid, count, spans]

theorem State.inSection_of_n (n : t.n = s.n) (i : Nat) : t.inSection i = s.inSection i := by
  rw [State.inSection, State.inSection, n]

theorem State.inSection_of_setup (setup : t.setup = s.setup) (i : Nat) : t.inSection i = s.inSection i :=
  State.inSection_of_n (State.n_of_setup setup) i

/-- Reading the promises in a state with the same setup. -/
theorem State.QueueInSection.of_spans (holds : s.QueueInSection) (setup : t.setup = s.setup)
    (spans : ∀ e ∈ t.queue, ∃ f ∈ s.queue, f.span = e.span) : t.QueueInSection := by
  intro e mem
  obtain ⟨f, memF, span⟩ := spans e mem
  rw [State.sect_of_setup setup, State.inSection_of_setup setup, ← span]
  exact holds f memF

theorem State.SequenceInSection.of_eq (holds : s.SequenceInSection) (setup : t.setup = s.setup)
    (same : t.isoSeq = s.isoSeq) : t.SequenceInSection := by
  simpa only [State.SequenceInSection, same, State.inSection_of_setup setup] using holds

theorem State.SequenceInSection.of_none (none : t.isoSeq = .none) : t.SequenceInSection := by
  rw [State.SequenceInSection, none]
  exact ⟨nofun, nofun⟩

theorem State.WireTidy.of_eq (holds : s.WireTidy) (setup : t.setup = s.setup) (line : t.line = s.line)
    (states : t.spanStates = s.spanStates) : t.WireTidy := by
  have occupied (i : Nat) : t.occupied i = s.occupied i := by rw [State.occupied, State.occupied, line]
  have spanState (i : Nat) : t.spanState i = s.spanState i := by rw [State.spanState, State.spanState, states]
  simpa only [State.WireTidy, line, State.inSection_of_setup setup, occupied, spanState] using holds

end Setup

section Follows
variable {s t u : State}

theorem State.Follows.refl (s : State) : s.Follows s := ⟨rfl, fun _ => .refl _, id, fun _ => id, id, id, id⟩

theorem State.Follows.trans (a : s.Follows t) (b : t.Follows u) : s.Follows u where
  setup := b.setup.trans a.setup
  trucks := fun k => (a.trucks k).trans (b.trucks k)
  queue := b.queue ∘ a.queue
  wire := fun spans tidy => b.wire (by rw [State.HasSpans, State.n_of_setup a.setup]; exact spans) (a.wire spans tidy)
  sequence := b.sequence ∘ a.sequence
  currents := b.currents ∘ a.currents
  counters := b.counters ∘ a.counters

/-- Records, queue entries and the sequence are written, each as it may be; the line order, the span states and the
counters stand. -/
theorem State.follows_of_records (setup : t.setup = s.setup) (trucks : ∀ k, (s.truck k).Follows (t.truck k))
    (queue : ∀ e ∈ t.queue, ∃ f ∈ s.queue, f.span = e.span) (line : t.line = s.line)
    (states : t.spanStates = s.spanStates) (sequence : t.isoSeq = s.isoSeq ∨ t.isoSeq = .none)
    (ports : ∀ p, t.port p = s.port p) : s.Follows t where
  setup := setup
  trucks := trucks
  queue := fun holds => holds.of_spans setup queue
  wire := fun _ tidy => tidy.of_eq setup line states
  sequence := fun holds => sequence.elim (holds.of_eq setup) .of_none
  currents := by
    rintro ⟨phantom, records, entries⟩
    rw [State.CurrentsHeld, State.params_of_setup setup, line]
    exact ⟨phantom, fun k => (trucks k).currents (records k), entries⟩
  counters := fun bounded p => by rw [ports p]; exact bounded p

theorem State.follows_setTruck {k : Slot} {x : Truck} (follows : (s.truck k).Follows x) : s.Follows (s.setTruck k x) := by
  refine State.follows_of_records rfl (fun j => ?_) (fun e mem => ⟨e, mem, rfl⟩) rfl rfl (.inl rfl) fun _ => rfl
  rw [State.truck_setTruck]
  split
  next same => exact same ▸ follows
  next => exact .refl _

/-- Nothing but the fields that no promise here speaks of is written. -/
theorem State.follows_of_eq (setup : t.setup = s.setup) (trucks : t.trucks = s.trucks) (queue : t.queue = s.queue)
    (line : t.line = s.line) (states : t.spanStates = s.spanStates) (sequence : t.isoSeq = s.isoSeq ∨ t.isoSeq = .none)
    (ports : ∀ p, t.port p = s.port p) : s.Follows t := by
  refine State.follows_of_records setup (fun k => ?_) (fun e mem => ⟨e, queue ▸ mem, rfl⟩) line states sequence ports
  rw [State.truck_def, State.truck_def, trucks]
  exact .refl _

theorem State.follows_setFaults (s : State) (f : FaultFlags) : s.Follows (s.setFaults f) :=
  State.follows_of_eq rfl rfl rfl rfl rfl (.inl rfl) fun _ => rfl

theorem State.follows_setEvents (s : State) (e : EventFlags) : s.Follows (s.setEvents e) :=
  State.follows_of_eq rfl rfl rfl rfl rfl (.inl rfl) fun _ => rfl

theorem State.follows_setSide (s : State) (f : Feed) (x : FeedSide) : s.Follows (s.setSide f x) :=
  State.follows_of_eq (s.setup_setSide f x) (s.setSide_trucks f x) (s.setSide_queue f x) (s.setSide_line f x)
    (s.setSide_spanStates f x) (.inl (s.setSide_isoSeq f x)) fun p => s.port_setSide f x p

theorem State.follows_abandoned (s : State) : s.Follows { s with isoSeq := .none } :=
  State.follows_of_eq rfl rfl rfl rfl rfl (.inr rfl) fun _ => rfl

theorem raised_le {c : Nat} (bounded : c ≤ 15) : raised c ≤ 15 := by
  unfold raised
  split <;> omega

theorem PortState.CountsOn.bounded {x y : PortState} (counts : x.CountsOn y)
    (bounded : x.checkErrors ≤ 15 ∧ x.unknownKinds ≤ 15) : y.checkErrors ≤ 15 ∧ y.unknownKinds ≤ 15 := by
  obtain ⟨check, unknown⟩ := counts
  constructor
  · rcases check with same | more
    · exact same ▸ bounded.1
    · exact more ▸ raised_le bounded.1
  · rcases unknown with same | more
    · exact same ▸ bounded.2
    · exact more ▸ raised_le bounded.2

theorem State.follows_setPort {p : Port} {x : PortState} (counts : (s.port p).CountsOn x) :
    s.Follows (s.setPort p x) := by
  refine ⟨s.setup_setPort p x, fun k => ?_, fun holds => ?_, fun _ tidy => ?_, fun holds => ?_, ?_, ?_⟩
  · rw [State.truck_setPort]
    exact .refl _
  · exact holds.of_spans (s.setup_setPort p x) fun e mem => ⟨e, s.setPort_queue p x ▸ mem, rfl⟩
  · exact tidy.of_eq (s.setup_setPort p x) (s.setPort_line p x) (s.setPort_spanStates p x)
  · exact holds.of_eq (s.setup_setPort p x) (s.setPort_isoSeq p x)
  · simp only [State.CurrentsHeld, State.setPort_params, State.truck_setPort, State.setPort_line, imp_self]
  · intro bounded q
    rw [State.port_setPort]
    split
    · exact counts.bounded (bounded p)
    · exact bounded q

end Follows

end Sys2Proof.Machine

namespace Sys2Proof.Machine

/-! ### The operations on records and on the queue -/

section Records
variable (s : State) (k : Slot)

theorem State.takenFrom_follows : s.Follows (s.takenFrom k) :=
  State.follows_setTruck (Truck.follows_of_eq rfl rfl rfl rfl rfl rfl)

theorem State.limit_follows : s.Follows (s.limit k).1 :=
  State.follows_setTruck (Truck.follows_of_eq rfl rfl rfl rfl rfl rfl)

theorem State.evaluateCut_follows : s.Follows (s.evaluateCut k) :=
  State.follows_setTruck (Truck.follows_of_eq rfl rfl rfl rfl rfl rfl)

theorem State.enterStandby_follows (holdoff : Option Time) : s.Follows (s.enterStandby k holdoff) :=
  State.follows_setTruck (Truck.follows_standby _ _ _)

theorem State.enterSilent_follows : s.Follows (s.enterSilent k) :=
  State.follows_setTruck (Truck.follows_of_state (fun _ => rfl) nofun rfl rfl rfl rfl rfl)

/-- A truck that enters DRAWING, its cut-acknowledge deadline evaluated (R70, R75, R112). -/
theorem State.enterDrawing_eq :
    s.enterDrawing k = s.setTruck k { s.truck k with
      state := .drawing, throughout := false, raiseConfirm := none, silentHold := none
      cutAck := if (s.truck k).issued < (s.truck k).inForce then
        some ((s.truck k).cutAck.getD (after s.now s.params.cutAcknowledge)) else none } := by
  simp [State.enterDrawing, State.evaluateCut]

theorem State.enterDrawing_follows : s.Follows (s.enterDrawing k) := by
  rw [State.enterDrawing_eq]
  exact State.follows_setTruck (Truck.follows_of_state (fun _ => rfl) nofun rfl rfl rfl rfl rfl)

theorem State.setSilence_follows : s.Follows (s.setSilence k) := by
  dsimp only [State.setSilence]
  split
  case h_4 => exact .refl s
  all_goals exact State.follows_setTruck (Truck.follows_of_eq rfl rfl rfl rfl rfl rfl)

theorem State.recordStatus_follows (p : Panto) (inForce measured : Nat) :
    s.Follows (s.recordStatus k p inForce measured) := by
  refine State.follows_setTruck ⟨.inr ⟨rfl, id⟩, id, ?_⟩
  rintro ⟨request, iMin, issued, -, -⟩
  exact ⟨request, iMin, issued, Nat.min_le_right _ _, Nat.min_le_right _ _⟩

theorem State.applyWanted_follows (wanted : Nat) : s.Follows (s.applyWanted k wanted) := by
  have written : (s.truck k).Follows { s.truck k with
      request := min wanted Config.maxTruck
      iMin := if min wanted Config.maxTruck < (s.truck k).iMin then max (min wanted Config.maxTruck) 200
        else (s.truck k).iMin } := by
    refine ⟨.inr ⟨rfl, id⟩, id, ?_⟩
    rintro ⟨-, ⟨least, -⟩, issued, inForce, measured⟩
    refine ⟨Nat.min_le_right _ _, ?_, issued, inForce, measured⟩
    dsimp only
    split <;> omega
  dsimp only [State.applyWanted]
  split
  case h_3 => exact .refl s
  all_goals exact State.follows_setTruck written

theorem State.lowerOrder_follows : s.Follows (s.lowerOrder k) := by
  dsimp only [State.lowerOrder]
  split
  case h_3 => exact State.follows_setTruck (Truck.follows_of_no_limit rfl (by simp [*]) rfl rfl (Nat.le_refl _) rfl)
  case h_1 | h_2 => exact State.follows_setTruck (Truck.follows_of_no_limit rfl nofun rfl rfl (Nat.le_refl _) rfl)
  all_goals exact .refl s

theorem State.unqueue_follows : s.Follows (s.unqueue k) :=
  State.follows_of_records rfl (fun _ => .refl _) (fun e mem => ⟨e, (List.mem_filter.1 mem).1, rfl⟩) rfl rfl (.inl rfl)
    fun _ => rfl

theorem State.spanGained_follows (i : Nat) : s.Follows (s.spanGained i) := by
  refine State.follows_of_records rfl (fun _ => .refl _) (fun e mem => ?_) rfl rfl (.inl rfl) fun _ => rfl
  obtain ⟨f, memF, rfl⟩ := List.mem_map.1 mem
  exact ⟨f, memF, (QueueEntry.gained_span i f).symm⟩

theorem State.raiseRefusal_eq_none {span : Nat} (none : s.raiseRefusal k span = none) :
    s.sect = .running ∧ s.inSection span = true := by
  unfold State.raiseRefusal at none
  split at none
  · exact nomatch none
  next running =>
    split at none
    · exact nomatch none
    · split at none
      · exact nomatch none
      next inside => exact ⟨by simpa using running, by simpa using inside⟩

theorem Truck.currents_takeRequest {t : Truck} (range : t.CurrentsInRange) (request iMin : Nat) :
    (t.takeRequest request iMin).CurrentsInRange := by
  obtain ⟨-, -, issued, inForce, measured⟩ := range
  refine ⟨Nat.min_le_right _ _, ?_, issued, inForce, measured⟩
  show 200 ≤ max 200 (min iMin (min request 3000)) ∧ max 200 (min iMin (min request 3000)) ≤ max 200 (min request 3000)
  omega

theorem State.acceptRaise_follows {span : Nat} (accepted : s.raiseRefusal k span = none) (request iMin : Nat) :
    s.Follows (s.acceptRaise k span request iMin) := by
  obtain ⟨running, inside⟩ := s.raiseRefusal_eq_none k accepted
  have idle : (s.truck k).state.issuing ≠ true := by
    rcases State.raiseRefusal_eq_none_state accepted with state | state <;> rw [state] <;> exact nofun
  have written (x : Truck) (currents : (s.truck k).CurrentsInRange → x.CurrentsInRange)
      (issued : x.issued = (s.truck k).issued) (pending : x.state = .raisePending → (s.truck k).state = .raisePending) :
      s.Follows (s.setTruck k x) :=
    State.follows_setTruck ⟨.inr ⟨issued, fun issuing => absurd issuing idle⟩, pending, currents⟩
  have queued {q : List QueueEntry} {t : State} (follows : s.Follows t)
      (entries : ∀ e ∈ q, e.span = span ∨ e ∈ s.queue) : s.Follows { t with queue := q } := by
    obtain ⟨setup, trucks, -, wire, sequence, currents, counters⟩ := follows
    refine ⟨setup, trucks, fun holds e mem => ?_, wire, sequence, currents, counters⟩
    have inSection : ({ t with queue := q } : State).inSection e.span = s.inSection e.span :=
      State.inSection_of_setup setup _
    rw [inSection, show ({ t with queue := q } : State).sect = s.sect from State.sect_of_setup setup]
    rcases entries e mem with own | old
    · exact ⟨running, own ▸ inside⟩
    · exact holds e old
  unfold State.acceptRaise
  dsimp only
  split
  · refine queued (written _ (fun range => Truck.currents_takeRequest range _ _) rfl id) fun e mem => ?_
    obtain ⟨f, memF, rfl⟩ := List.mem_map.1 mem
    split
    · exact .inl rfl
    · exact .inr memF
  · refine queued (written { (s.truck k).takeRequest request iMin with
      state := .queued, throughout := false, idle := none
      queueWait := some (after s.now (s.params.queueWait * 1000)) }
      (fun range => (Truck.currents_takeRequest range request iMin).congr rfl rfl rfl rfl rfl) rfl nofun) fun e mem => ?_
    rcases List.mem_append.1 mem with old | new
    · exact .inr old
    · exact .inl (by rw [List.mem_singleton.1 new])

end Records

/-! ### The operations on the line order and the span states -/

section Wire
variable {s t : State}

/-- The line order and the span states are rewritten: entries stay in the section, a PENDING_BAR span keeps or gets an
entry, and phantoms carry currents in range. -/
theorem State.follows_of_wire (setup : t.setup = s.setup) (trucks : ∀ k, (s.truck k).Follows (t.truck k))
    (queue : ∀ e ∈ t.queue, ∃ f ∈ s.queue, f.span = e.span)
    (inside : s.HasSpans → (∀ e ∈ s.line, s.inSection e.span = true) → ∀ e ∈ t.line, s.inSection e.span = true)
    (bars : ∀ i, (s.spanState i = .pendingBar → s.occupied i = true) → t.spanState i = .pendingBar →
      t.occupied i = true)
    (currents : s.CurrentsHeld → ∀ e ∈ t.line, e.current ≤ 3000) (sequence : t.isoSeq = s.isoSeq)
    (ports : ∀ p, t.port p = s.port p) : s.Follows t where
  setup := setup
  trucks := trucks
  queue := fun holds => holds.of_spans setup queue
  wire := fun spans ⟨within, bar⟩ =>
    ⟨fun e mem => (State.inSection_of_setup setup _).trans (inside spans within e mem), fun i => bars i (bar i)⟩
  sequence := fun holds => holds.of_eq setup sequence
  currents := by
    intro held
    have entries := currents held
    obtain ⟨phantom, records, -⟩ := held
    exact ⟨State.params_of_setup setup ▸ phantom, fun k => (trucks k).currents (records k), entries⟩
  counters := fun bounded p => by rw [ports p]; exact bounded p

/-- The line order rewritten with an entry left wherever there was one. -/
theorem State.follows_putLine {l : List Entry}
    (inside : s.HasSpans → (∀ e ∈ s.line, s.inSection e.span = true) → ∀ e ∈ l, s.inSection e.span = true)
    (occupied : ∀ e ∈ s.line, ∃ f ∈ l, f.span = e.span) (currents : s.CurrentsHeld → ∀ e ∈ l, e.current ≤ 3000) :
    s.Follows (s.putLine l) := by
  refine State.follows_of_wire rfl (fun _ => .refl _) (fun e mem => ⟨e, mem, rfl⟩) inside (fun i bar pending => ?_)
    currents rfl fun _ => rfl
  obtain ⟨e, mem, span⟩ := List.any_eq_true.1 (bar pending)
  obtain ⟨f, memF, same⟩ := occupied e mem
  exact List.any_eq_true.2 ⟨f, memF, by rw [same]; exact span⟩

/-- Entries changed in their places. -/
theorem State.follows_mapLine {f : Entry → Entry} (span : ∀ e, (f e).span = e.span)
    (current : s.CurrentsHeld → ∀ e, e.current ≤ 3000 → (f e).current ≤ 3000) : s.Follows (s.putLine (s.line.map f)) := by
  refine State.follows_putLine (fun _ inside e mem => ?_) (fun e mem => ⟨f e, List.mem_map_of_mem mem, span e⟩)
    fun held e mem => ?_
  · obtain ⟨x, memX, rfl⟩ := List.mem_map.1 mem
    rw [span]
    exact inside x memX
  · obtain ⟨x, memX, rfl⟩ := List.mem_map.1 mem
    exact current held x (held.2.2 x memX)

theorem Entry.forget_current (k : Slot) (e : Entry) : (e.forget k).current = e.current := by
  unfold Entry.forget
  split
  next kind => split <;> simp [Entry.current, kind]
  next => rfl

theorem State.freeSlot_follows (s : State) (k : Slot) : s.Follows (s.freeSlot k) :=
  (State.follows_setTruck (Truck.follows_free _)).trans (State.follows_mapLine (s := s.setTruck k {})
    (Entry.forget_span k) fun _ e range => by rw [Entry.forget_current]; exact range)

theorem State.updateEntry_follows (s : State) (r : EntryRef) {f : Entry → Entry} (span : ∀ e, (f e).span = e.span)
    (kind : ∀ e, (f e).kind = e.kind) : s.Follows (s.updateEntry r f) := by
  refine State.follows_mapLine (fun e => ?_) fun _ e range => ?_
  · split
    · exact span e
    · rfl
  · have current : (f e).current = e.current := by rw [Entry.current, Entry.current, kind]
    split
    · exact current ▸ range
    · exact range

theorem State.removeEntries_follows (s : State) (q : Entry → Bool) : s.Follows (s.removeEntries q) := by
  refine State.follows_of_wire (s.setup_removeEntries q) (fun k => ?_) (fun e mem => ?_) (fun _ inside e mem => ?_)
    (fun i bar pending => ?_) (fun held e mem => ?_) (s.removeEntries_isoSeq q) fun p => ?_
  · rw [State.truck_removeEntries]
    exact .refl _
  · exact ⟨e, by rwa [State.removeEntries_queue] at mem, rfl⟩
  · rw [State.removeEntries_line] at mem
    exact inside e (List.mem_filter.1 mem).1
  · rw [State.removeEntries_spanState] at pending
    split at pending
    · exact nomatch pending
    next keeps =>
      obtain ⟨e, mem, span⟩ := List.any_eq_true.1 (bar pending)
      rw [State.occupied, State.removeEntries_line]
      cases removed : q e with
      | false => exact List.any_eq_true.2 ⟨e, List.mem_filter.2 ⟨mem, by rw [removed]; rfl⟩, span⟩
      | true =>
        refine Classical.byContradiction fun empty => ?_
        exact keeps ⟨pending, List.any_eq_true.2 ⟨e, mem, by rw [removed, span]; rfl⟩, Bool.eq_false_iff.2 empty⟩
  · rw [State.removeEntries_line] at mem
    exact held.2.2 e (List.mem_filter.1 mem).1
  · rw [State.removeEntries_frame]
    cases p <;> rfl

theorem Truck.CurrentsInRange.exposure {t : Truck} (range : t.CurrentsInRange) : t.exposure ≤ 3000 := by
  obtain ⟨-, -, ⟨issued, -⟩, inForce, -⟩ := range
  exact Nat.max_le.2 ⟨issued, inForce⟩

theorem State.convert_follows (s : State) (k : Slot) (origin : Option (Slot × U16)) :
    s.Follows (s.convert k (s.truck k).exposure origin) := by
  unfold State.convert
  split
  · refine State.follows_mapLine (fun e => ?_) fun held e range => ?_
    · unfold Entry.toPhantom
      split <;> rfl
    · unfold Entry.toPhantom
      split
      · exact (held.2.1 k).exposure
      · exact range
  · exact (s.removeEntries_follows _).trans (State.follows_setFaults _ _)

theorem State.tellEntered_follows (s : State) (i : Nat) (kind : EntryKind) : s.Follows (s.tellEntered i kind) := by
  unfold State.tellEntered
  split
  · exact .refl s
  · have flagged := s.follows_setFaults { s.faults with barredEntry := true }
    cases kind with
    | truck k => exact flagged.trans (State.lowerOrder_follows _ k)
    | phantom => exact flagged

theorem State.createPhantom_follows (s : State) {i : Nat} (v : Nat) (inside : s.HasSpans → s.inSection i = true) :
    s.Follows (s.createPhantom i v) := by
  unfold State.createPhantom
  split
  · refine .trans (State.Follows.trans (State.follows_putLine (fun spans old e mem => ?_) (fun e mem => ?_)
      fun held e mem => ?_) (State.spanGained_follows _ i)) (State.tellEntered_follows _ i _)
    · rcases mem_insertEntry.1 mem with rfl | mem
      · exact inside spans
      · exact old e mem
    · exact ⟨e, mem_insertEntry.2 (.inr mem), rfl⟩
    · rcases mem_insertEntry.1 mem with rfl | mem
      · exact held.1
      · exact held.2.2 e mem
  · exact s.follows_setFaults _

/-! ### Passes -/

theorem State.inSection_iff (s : State) (i : Nat) : s.inSection i = true ↔ ∃ n, s.n = some n ∧ i < n := by
  rw [State.inSection]
  cases s.n <;> simp

theorem State.unmatched_follows (s : State) {n j : Nat} (count : s.n = some n) (atMost : j ≤ n) (v : Nat) :
    s.Follows (s.unmatched n j v) := by
  refine (s.follows_setFaults _).trans (State.createPhantom_follows _ v fun spans => ?_)
  rw [State.inSection_iff]
  have positive := spans n count
  refine ⟨n, count, ?_⟩
  split <;> omega

/-- The line order rewritten with an entry left wherever there was one but on span `i`, which is told. -/
theorem State.follows_told {l : List Entry} {i : Nat}
    (inside : s.HasSpans → (∀ e ∈ s.line, s.inSection e.span = true) → ∀ e ∈ l, s.inSection e.span = true)
    (occupied : ∀ e ∈ s.line, e.span ≠ i → ∃ f ∈ l, f.span = e.span)
    (currents : s.CurrentsHeld → ∀ e ∈ l, e.current ≤ 3000) : s.Follows ((s.putLine l).tellEmptied i) := by
  have frame := (s.putLine l).tellEmptied_frame i
  have states (m : Nat) := (s.putLine l).tellEmptied_spanState i m
  generalize (s.putLine l).tellEmptied i = t at frame states
  have line : t.line = l := by rw [frame]; rfl
  refine State.follows_of_wire (by rw [frame]; rfl) (fun k => ?_) (fun e mem => ⟨e, by rwa [frame] at mem, rfl⟩)
    (fun spans old => line ▸ inside spans old) (fun m bar pending => ?_) (fun held => line ▸ currents held)
    (by rw [frame]; rfl) fun p => ?_
  · have same : t.truck k = s.truck k := by rw [frame]; rfl
    rw [same]
    exact .refl _
  · rw [states m] at pending
    split at pending
    · exact nomatch pending
    next keeps =>
      have occupiedT : t.occupied m = (s.putLine l).occupied m := by rw [frame]; rfl
      rw [occupiedT]
      by_cases own : m = i
      · subst own
        refine Classical.byContradiction fun empty => ?_
        exact keeps ⟨rfl, Bool.eq_false_iff.2 empty, pending⟩
      · obtain ⟨e, mem, span⟩ := List.any_eq_true.1 (bar pending)
        have spanE : e.span = m := by simpa using span
        obtain ⟨f, memF, same⟩ := occupied e mem fun eq => own (spanE.symm.trans eq)
        exact List.any_eq_true.2 ⟨f, memF, by rw [same]; exact span⟩
  · rw [frame]
    cases p <;> rfl

theorem State.leaveWire_follows {e : Entry} {ahead behind : List Entry} (line : s.line = ahead ++ e :: behind)
    (foremost : ∀ x ∈ ahead, x.span ≠ e.span) : s.Follows (s.leaveWire e) := by
  have left : updateForemost e.span (fun _ => none) s.line = ahead ++ behind := by
    rw [line, updateForemost_split _ e behind foremost]
    simp
  have mem {x : Entry} (stays : x ∈ ahead ++ behind) : x ∈ s.line := by
    rw [line]
    simp only [List.mem_append, List.mem_cons] at stays ⊢
    exact stays.imp_right .inr
  have gone : s.Follows ((s.putLine (ahead ++ behind)).tellEmptied e.span) := by
    refine State.follows_told (fun _ old x memX => old x (mem memX)) (fun x memX other => ⟨x, ?_, rfl⟩)
      fun held x memX => held.2.2 x (mem memX)
    have ne : x ≠ e := fun eq => other (eq ▸ rfl)
    rw [line] at memX
    simpa [ne] using memX
  unfold State.leaveWire
  rw [left]
  cases e.kind with
  | truck k => exact gone.trans (State.enterStandby_follows _ k none)
  | phantom => exact gone

/-- Telling a span emptied and writing a truck's record do not depend on each other. -/
theorem State.tellEmptied_makeContact (s : State) (i : Nat) (kind : EntryKind) :
    (s.makeContact kind).tellEmptied i = (s.tellEmptied i).makeContact kind := by
  have written (k : Slot) (x : Truck) : (s.setTruck k x).tellEmptied i = (s.tellEmptied i).setTruck k x := by
    unfold State.tellEmptied
    rw [State.occupied_setTruck, State.spanState_setTruck]
    split
    · rfl
    · split <;> rfl
  have frame := s.tellEmptied_frame i
  cases kind with
  | phantom => rfl
  | truck k =>
    have same : (s.tellEmptied i).truck k = s.truck k := by rw [frame]; rfl
    unfold State.makeContact
    dsimp only
    rw [same]
    split
    · rw [State.enterDrawing_eq, State.enterDrawing_eq, written, same]
      generalize s.tellEmptied i = t at frame
      rw [frame]
    · rfl

theorem State.makeContact_follows (s : State) (kind : EntryKind) : s.Follows (s.makeContact kind) := by
  unfold State.makeContact
  cases kind with
  | phantom => exact .refl s
  | truck k =>
    dsimp only
    split
    · exact s.enterDrawing_follows k
    · exact .refl s

theorem State.moveUp_follows {e : Entry} {ahead behind : List Entry} (line : s.line = ahead ++ e :: behind)
    (foremost : ∀ x ∈ ahead, x.span ≠ e.span) (inside : s.inSection (e.span + 1) = true) (v : Nat) :
    s.Follows (s.moveUp e v) := by
  have mem {x : Entry} (stays : x ∈ ahead ++ behind) : x ∈ s.line := by
    rw [line]
    simp only [List.mem_append, List.mem_cons] at stays ⊢
    exact stays.imp_right .inr
  have split {x : Entry} (memX : x ∈ ahead ++ s.movedEntry e v :: behind) :
      x = s.movedEntry e v ∨ x ∈ ahead ++ behind := by
    simp only [List.mem_append, List.mem_cons] at memX ⊢
    exact or_left_comm.1 memX
  have moved : s.Follows ((s.putLine (ahead ++ s.movedEntry e v :: behind)).tellEmptied e.span) := by
    refine State.follows_told (fun _ old x memX => ?_) (fun x memX other => ⟨x, ?_, rfl⟩) fun held x memX => ?_
    · rcases split memX with rfl | stays
      · exact inside
      · exact old x (mem stays)
    · have ne : x ≠ e := fun eq => other (eq ▸ rfl)
      rw [line] at memX
      simp only [List.mem_append, List.mem_cons, ne, false_or] at memX ⊢
      exact memX.imp_right .inr
    · rcases split memX with rfl | stays
      · exact held.2.2 e (line ▸ by simp)
      · exact held.2.2 x (mem stays)
  rw [State.moveUp_eq line foremost, State.tellEmptied_makeContact]
  exact ((moved.trans (State.makeContact_follows _ _)).trans (State.spanGained_follows _ _)).trans
    (State.tellEntered_follows _ _ _)

theorem State.takePass_follows (s : State) (j width : Nat) (overlong : Bool) :
    s.Follows (s.takePass j width overlong) := by
  unfold State.takePass
  split
  · exact .refl s
  next n count =>
    split
    · exact .refl s
    next atMost =>
      dsimp only
      split
      · exact s.unmatched_follows count (by omega) _
      next e found =>
        split at found
        · exact nomatch found
        next positive =>
          obtain ⟨ahead, behind, line, span, foremost⟩ := find_foremost found
          split
          · exact State.leaveWire_follows line foremost
          next below =>
            exact State.moveUp_follows line foremost ((s.inSection_iff _).2 ⟨n, count, by omega⟩) _

end Wire

end Sys2Proof.Machine

namespace Sys2Proof.Machine

/-! ### The rules -/

section Rules
variable (s : State)

theorem State.follows_request {s : State} {rule : State → State × Answer} (p : Port) (rules : s.Follows (rule s).1) :
    s.Follows (s.request p rule) := by
  unfold State.request
  split
  · exact rules.trans (State.follows_setPort (PortState.countsOn_of_eq rfl rfl))
  · split
    · exact State.follows_setPort (PortState.countsOn_of_eq rfl rfl)
    · exact .refl s

theorem joinRule_follows (fleet : U16) : s.Follows (joinRule fleet s).1 := by
  unfold joinRule
  split
  · exact .refl s
  · split
    next k _ => exact (s.takenFrom_follows k).trans (State.setSilence_follows _ k)
    next =>
      split
      next k found =>
        dsimp only
        rw [State.enterStandby_eq, State.truck_setTruck_same, State.setTruck_setTruck]
        exact State.follows_setTruck ⟨.inl rfl, nofun, fun _ => (Truck.follows_free (s.truck k)).currents ‹_›⟩
      next => exact .refl s

theorem State.pantoTransition_follows (k : Slot) (p : Panto) : s.Follows (s.pantoTransition k p) := by
  have off (holdoff : Option Time) : s.Follows ((s.removeTruck k).enterStandby k holdoff) :=
    (s.removeEntries_follows _).trans (State.enterStandby_follows _ k holdoff)
  unfold State.pantoTransition
  cases (s.truck k).state <;> cases p <;> dsimp only
  case silent.down => exact off none
  case drawing.down => exact off none
  case lowering.down => exact off _
  case raisePending.up => exact s.enterDrawing_follows k
  case silent.up =>
    split
    · exact s.enterDrawing_follows k
    · exact (s.enterDrawing_follows k).trans (State.lowerOrder_follows _ k)
  all_goals exact .refl s

theorem statusRule_follows (slot : Byte) (fleet : U16) (panto : Byte) (inForce measured wanted : U16) :
    s.Follows (statusRule slot fleet panto inForce measured wanted s).1 := by
  unfold statusRule
  split
  · exact .refl s
  next k _ =>
    refine State.Follows.trans (.trans (.trans (.trans (.trans (.trans (.trans (s.takenFrom_follows k)
      (State.recordStatus_follows _ k (pantoOf panto) inForce.toNat measured.toNat)) ?_)
      (State.pantoTransition_follows _ k (pantoOf panto))) (State.applyWanted_follows _ k wanted.toNat))
      (State.evaluateCut_follows _ k)) (State.setSilence_follows _ k)) (State.limit_follows _ k)
    split
    · exact State.removeEntries_follows _ _
    · exact .refl _

theorem raiseRule_follows (slot : Byte) (fleet : U16) (span : Byte) (request iMin : U16) :
    s.Follows (raiseRule slot fleet span request iMin s).1 := by
  unfold raiseRule
  split
  · exact .refl s
  next k _ =>
    dsimp only
    refine (s.takenFrom_follows k).trans ?_
    split
    · exact State.setSilence_follows _ k
    next accepted => exact (State.acceptRaise_follows _ k accepted _ _).trans (State.limit_follows _ k)

theorem cancelRule_follows (slot : Byte) (fleet : U16) : s.Follows (cancelRule slot fleet s).1 := by
  unfold cancelRule
  split
  · exact .refl s
  next k _ =>
    dsimp only
    refine (s.takenFrom_follows k).trans ?_
    split
    case h_1 =>
      exact ((State.unqueue_follows _ k).trans (State.enterStandby_follows _ k none)).trans (State.limit_follows _ k)
    case h_2 => exact State.limit_follows _ k
    case h_3 =>
      exact ((State.removeEntries_follows _ _).trans (State.enterStandby_follows _ k none)).trans
        (State.limit_follows _ k)
    all_goals exact State.setSilence_follows _ k

theorem leaveRule_follows (slot : Byte) (fleet : U16) : s.Follows (leaveRule slot fleet s).1 := by
  unfold leaveRule
  split
  · exact .refl s
  next k _ =>
    dsimp only
    refine (s.takenFrom_follows k).trans ?_
    split
    case h_1 => exact State.freeSlot_follows _ k
    case h_2 => exact (State.unqueue_follows _ k).trans (State.freeSlot_follows _ k)
    case h_3 => exact State.setSilence_follows _ k

theorem evictRule_follows (slot : Byte) (flag : Bool) : s.Follows (evictRule slot flag s).1 := by
  unfold evictRule
  split
  · exact .refl s
  next k _ =>
    split
    case h_1 => exact .refl s
    case h_2 => exact s.freeSlot_follows k
    case h_3 => exact (s.unqueue_follows k).trans (State.freeSlot_follows _ k)
    all_goals exact (s.convert_follows k none).trans (State.freeSlot_follows _ k)

theorem clearPhantomRule_follows (number : Byte) (flag : Bool) : s.Follows (clearPhantomRule number flag s).1 := by
  rw [clearPhantomRule_eq]
  split
  · exact s.removeEntries_follows _
  · exact .refl s

theorem State.follows_setSides (f : Feed) (x : FeedSide) (faults : FaultFlags) :
    s.Follows ((s.setSide f x).setFaults faults) := (s.follows_setSide f x).trans (State.follows_setFaults _ faults)

theorem feedReportRule_follows (f : Feed) (ident : Byte) (volts capacity : U16) (breaker : Byte) (output : U16) :
    s.Follows (feedReportRule f ident volts capacity breaker output s).1 := by
  have checked (b : Breaker) (out : Nat) : s.Follows (s.overdrawCheck f b out) := by
    unfold State.overdrawCheck
    dsimp only
    split
    · split
      · exact s.follows_setSides f _ _
      · exact s.follows_setSide f _
    · exact .refl s
  have taken (u : State) (v c : Nat) (b : Breaker) (out : Nat) : u.Follows (u.takeReport f v c b out) := by
    cases b with
    | closed => exact u.follows_setSide f _
    | opened =>
      unfold State.takeReport
      dsimp only
      split
      · exact (u.follows_setSide f _).trans (State.follows_setEvents _ _)
      · exact u.follows_setSide f _
  unfold feedReportRule
  split
  · exact .refl s
  · exact (checked _ _).trans (taken _ _ _ _ _)

/-- The isolation sequence alone is written. -/
theorem State.follows_sequence {x : IsoSeq} (inside : ({ s with isoSeq := x } : State).SequenceInSection) :
    s.Follows { s with isoSeq := x } :=
  ⟨rfl, fun _ => .refl _, id, fun _ => id, fun _ => inside, id, id⟩

theorem isoFromRule_follows (a : Byte) : s.Follows (isoFromRule a s).1 := by
  unfold isoFromRule
  split
  next inside =>
    refine s.follows_sequence ⟨fun b eq => ?_, nofun⟩
    obtain rfl := IsoSeq.fromSet.inj eq
    exact inside
  next => exact s.follows_abandoned

theorem isoToRule_follows (b : Byte) : s.Follows (isoToRule b s).1 := by
  unfold isoToRule
  split
  · exact s.follows_abandoned
  next inside =>
    have inside : s.inSection b.toNat = true := by simpa using inside
    split
    · split
      · exact s.follows_abandoned
      next ordered =>
        refine s.follows_sequence ⟨nofun, fun x y eq => ?_⟩
        obtain ⟨rfl, rfl⟩ := IsoSeq.toSet.inj eq
        exact ⟨Nat.le_of_not_lt ordered, inside⟩
    · exact s.follows_abandoned

theorem State.spanState_beyond {i : Nat} (beyond : 16 ≤ i) : s.spanState i = .opened := by
  rw [State.spanState, Vector.getElem?_eq_none beyond]
  rfl

theorem State.applyBar_follows (a b : Nat) : s.Follows (s.applyBar a b) := by
  obtain ⟨frame, states, trucks⟩ := s.applyBar_spec a b
  have setup := s.setup_applyBar a b
  generalize s.applyBar a b = t at frame states trucks setup
  have line : t.line = s.line := by rw [frame]
  have queue : t.queue = s.queue.filter fun e => !s.fresh a b e.span := by rw [frame]
  refine State.follows_of_wire setup (fun k => ?_) (fun e mem => ⟨e, ?_, rfl⟩) (fun _ inside => line ▸ inside)
    (fun i bar pending => ?_) (fun held => line ▸ held.2.2) (by rw [frame]) fun p => ?_
  · rw [trucks k]
    split
    · exact Truck.follows_expelled _ _ _
    · exact .refl _
  · rw [queue] at mem
    exact (List.mem_filter.1 mem).1
  · have occupied : t.occupied i = s.occupied i := by rw [State.occupied, State.occupied, line]
    rw [occupied]
    by_cases small : i < 16
    · rw [states i small] at pending
      split at pending
      · split at pending
        next there => exact there
        next => exact nomatch pending
      · exact bar pending
    · rw [t.spanState_beyond (Nat.le_of_not_lt small)] at pending
      exact nomatch pending
  · rw [frame]
    cases p <;> rfl

theorem isoApplyRule_follows : s.Follows (isoApplyRule s).1 := by
  unfold isoApplyRule
  split
  next a b _ =>
    have barred := s.applyBar_follows a b
    dsimp only
    exact barred.trans (State.follows_abandoned _)
  next => exact s.follows_abandoned

theorem restoreRule_follows (a b : Byte) (flag : Bool) : s.Follows (restoreRule a b flag s).1 := by
  unfold restoreRule
  split
  · obtain ⟨states, frame⟩ := s.openSpans_spec a.toNat b.toNat
    have setup := s.setup_openSpans a.toNat b.toNat
    show s.Follows (s.openSpans a.toNat b.toNat)
    generalize s.openSpans a.toNat b.toNat = t at frame states setup
    have line : t.line = s.line := by rw [frame]
    refine State.follows_of_wire setup (fun k => ?_) (fun e mem => ⟨e, ?_, rfl⟩) (fun _ inside => line ▸ inside)
      (fun i bar pending => ?_) (fun held => line ▸ held.2.2) (by rw [frame]) fun p => ?_
    · have same : t.truck k = s.truck k := by rw [frame]; rfl
      rw [same]
      exact .refl _
    · rwa [frame] at mem
    · have occupied : t.occupied i = s.occupied i := by rw [State.occupied, State.occupied, line]
      rw [occupied]
      by_cases small : i < 16
      · rw [states i small] at pending
        split at pending
        · exact nomatch pending
        · exact bar pending
      · rw [t.spanState_beyond (Nat.le_of_not_lt small)] at pending
        exact nomatch pending
    · rw [frame]
      cases p <;> rfl
  · exact .refl s

theorem State.clearAllCounters_follows : s.Follows s.clearAllCounters := by
  refine ⟨rfl, fun _ => .refl _, id, fun _ => id, id, id, fun _ p => ?_⟩
  cases p <;> exact ⟨Nat.zero_le _, Nat.zero_le _⟩

theorem querySectionRule_follows (part : Byte) : s.Follows (querySectionRule part s).1 := by
  unfold querySectionRule
  split
  · exact s.follows_setEvents {}
  · exact .refl s

theorem State.stopTrucks_follows : s.Follows s.stopTrucks := by
  obtain ⟨trucks, frame⟩ := s.stopTrucks_spec
  have stopped (k : Slot) : (s.truck k).Follows (s.stopTrucks.truck k) := by
    rw [trucks k]
    unfold State.stopTruck
    split
    · rw [State.expel_eq, State.truck_setTruck_same]
      exact Truck.follows_expelled _ _ _
    all_goals first | exact (s.lowerOrder_follows k).trucks k | exact .refl _
  generalize s.stopTrucks = t at frame stopped
  refine State.follows_of_records (by rw [frame]; rfl) stopped (fun e mem => ?_) (by rw [frame]) (by rw [frame])
    (.inl (by rw [frame])) fun p => ?_
  · rw [frame] at mem
    exact nomatch mem
  · rw [frame]
    cases p <;> rfl

theorem State.markSnapshot_follows : s.Follows s.markSnapshot := by
  obtain ⟨trucks, frame⟩ := s.markSnapshot_spec
  have marked (k : Slot) : (s.truck k).Follows (s.markSnapshot.truck k) := by
    rw [trucks k]
    exact Truck.follows_of_eq rfl rfl rfl rfl rfl rfl
  generalize s.markSnapshot = t at frame marked
  refine State.follows_of_records (by rw [frame]; rfl) marked (fun e mem => ?_) (by rw [frame]) (by rw [frame])
    (.inl (by rw [frame])) fun p => ?_
  · rw [frame] at mem
    obtain ⟨f, memF, rfl⟩ := List.mem_map.1 mem
    exact ⟨f, memF, rfl⟩
  · rw [frame]
    cases p <;> rfl

end Rules

/-! ### The commands -/

section Commands
variable {s t : State}

theorem exec_request_follows {c : Instr} (request : (requestParts c).isSome = true) (other : writesSetup c = false)
    (next : exec c s = .next t) : s.Follows t := by
  have abandoned {rule : Bool → State → State × Answer}
      (rules : ∀ u : State, u.Follows (rule s.isoBusy u).1) :
      s.Follows (s.request .dispatch fun s => s.abandoning rule) :=
    State.follows_request .dispatch (s.follows_abandoned.trans (rules _))
  cases c
  all_goals first
    | exact absurd request Bool.false_ne_true
    | exact absurd other Bool.true_eq_false.mp
    | obtain rfl := Host.Outcome.next.inj next
  case join f => exact State.follows_request _ (joinRule_follows s f)
  case status n f u i m w => exact State.follows_request _ (statusRule_follows s n f u i m w)
  case raise n f x r i => exact State.follows_request _ (raiseRule_follows s n f x r i)
  case cancel n f => exact State.follows_request _ (cancelRule_follows s n f)
  case leave n f => exact State.follows_request _ (leaveRule_follows s n f)
  case feedReport f i v c b o => exact State.follows_request _ (feedReportRule_follows s f i v c b o)
  case shed f _ => exact State.follows_request _ (s.follows_setSide f _)
  case shedRelease f => exact State.follows_request _ (s.follows_setSide f _)
  case isoFrom a => exact State.follows_request _ (isoFromRule_follows s a)
  case isoTo b => exact State.follows_request _ (isoToRule_follows s b)
  case isoApply => exact State.follows_request _ (isoApplyRule_follows s)
  case restore a b => exact abandoned fun u => restoreRule_follows u a b _
  case clearFaults => exact abandoned fun u => u.follows_setFaults _
  case clearPhantom n => exact abandoned fun u => clearPhantomRule_follows u n _
  case evict n => exact abandoned fun u => evictRule_follows u n _
  case clearCounters => exact abandoned fun u => u.clearAllCounters_follows
  case warmReset =>
    exact abandoned fun u => State.follows_of_eq rfl rfl rfl rfl rfl (.inl rfl) fun _ => rfl
  case querySection n => exact State.follows_request _ (querySectionRule_follows s n)
  all_goals exact State.follows_request _ (.refl s)

theorem exec_event_follows {c : Instr} (event : requestParts c = none) (other : writesSetup c = false)
    (next : exec c s = .next t) : s.Follows t := by
  have ported {p : Port} {c : Instr} (h : ∃ x, (s.port p).CountsOn x ∧ exec c s = .next (s.setPort p x))
      (next : exec c s = .next t) : s.Follows t := by
    obtain ⟨x, counts, eq⟩ := h
    obtain rfl := Host.Outcome.next.inj (next.symm.trans eq)
    exact State.follows_setPort counts
  have whenDue {p : Prop} [Decidable p] {u : State} (taken : p → s.Follows u) : s.Follows (if p then u else s) := by
    split
    next passed => exact taken passed
    next => exact .refl s
  have flagged {u : State} (follows : s.Follows u) (e : EventFlags) : s.Follows (u.setEvents e) :=
    follows.trans (u.follows_setEvents e)
  have channel (j : Joint) (x : Channel) : s.Follows (s.setChannel j x) :=
    State.follows_of_eq rfl rfl rfl rfl rfl (.inl rfl) fun _ => rfl
  have phantom (k : Slot) (holdoff : Option Time) :
      s.Follows ((s.convert k (s.truck k).exposure (s.originOf k)).enterStandby k holdoff) :=
    (s.convert_follows k _).trans (State.enterStandby_follows _ k holdoff)
  cases c
  all_goals first
    | exact absurd event (Option.some_ne_none _)
    | exact absurd other Bool.true_eq_false.mp
    | skip
  case frameDiscarded p w => exact ported (exec_frameDiscarded_port s p w) next
  case frameTimeout p => exact ported (exec_frameTimeout_port s p) next
  case answerSent p => exact ported (exec_answerSent_port s p) next
  all_goals obtain rfl := Host.Outcome.next.inj next
  case blankingDeadline j =>
    refine whenDue fun _ => ?_
    dsimp only
    split
    · exact channel j _
    · split
      · exact channel j _
      · exact (channel j _).trans (State.takePass_follows _ _ _ _)
  case overlongDeadline j =>
    refine whenDue fun _ => ?_
    dsimp only
    split
    · exact (channel j _).trans (State.takePass_follows _ _ _ _)
    · exact (channel j _).trans (State.takePass_follows _ _ _ _)
    · exact .refl s
  case feedLateDeadline f => exact whenDue fun _ => flagged (s.follows_setSide f _) _
  case feedOutDeadline f => exact whenDue fun _ => flagged (s.follows_setSide f _) _
  case shedDeadline f => exact whenDue fun _ => flagged (s.follows_setSide f _) _
  case idleDeadline k => exact whenDue fun _ => s.freeSlot_follows k
  case holdoffExpiry k =>
    exact whenDue fun _ => State.follows_setTruck (x := { s.truck k with holdoff := none })
      (Truck.follows_of_eq rfl rfl rfl rfl rfl rfl)
  case raiseConfirmDeadline k => exact whenDue fun _ => flagged (phantom k _) _
  case lowerConfirmDeadline k => exact whenDue fun _ => flagged (s.enterSilent_follows k) _
  case cutAcknowledgeDeadline k =>
    exact whenDue fun _ => (s.follows_setEvents _).trans (State.lowerOrder_follows _ k)
  case silenceDeadline k => exact whenDue fun _ => flagged (s.enterSilent_follows k) _
  case silentHoldDeadline k => exact whenDue fun _ => flagged (phantom k _) _
  case queueWaitDeadline k => exact whenDue fun _ => (s.unqueue_follows k).trans (State.enterStandby_follows _ k none)
  case spacingDeadline =>
    exact whenDue fun _ => State.follows_of_eq rfl rfl rfl rfl rfl (.inl rfl) fun _ => rfl
  case nextJointDeadline r =>
    split
    · exact .refl s
    · exact whenDue fun _ => s.updateEntry_follows r (fun _ => rfl) fun _ => rfl
  case lostDeadline r =>
    split
    · exact .refl s
    · refine whenDue fun _ => ?_
      have updated : s.Follows (s.updateEntry r fun e => { e with lost := none }) :=
        s.updateEntry_follows r (fun _ => rfl) fun _ => rfl
      cases r with
      | truck k => exact (flagged updated _).trans (State.lowerOrder_follows _ k)
      | phantom n => exact updated
  case phantomExpiry n =>
    split
    · exact .refl s
    · exact whenDue fun _ => s.removeEntries_follows _

/-- Every command that keeps the setup keeps what is promised of each block. -/
theorem exec_follows {c : Instr} (other : writesSetup c = false) (next : exec c s = .next t) : s.Follows t := by
  cases parts : requestParts c with
  | none => exact exec_event_follows parts other next
  | some _ => exact exec_request_follows (by rw [parts]; rfl) other next

end Commands

end Sys2Proof.Machine

namespace Sys2Proof.Machine

/-! ### The commit: results and grant -/

/-- A truck has an issued limit only in the states that have one (R58, R59). -/
def Truck.Quiet (t : Truck) : Prop := t.issued ≠ 0 → t.state.issuing = true

theorem Truck.Follows.quiet {t u : Truck} (follows : t.Follows u) (quiet : t.Quiet) : u.Quiet := by
  intro issued
  rcases follows.issued with none | ⟨same, issuing⟩
  · exact absurd none issued
  · exact issuing (quiet fun zero => issued (same.trans zero))

/-- A record after a commit's results: as after any other command, but for a limit issued to a DRAWING truck. -/
structure Truck.Takes (t u : Truck) : Prop where
  quiet : t.Quiet → u.Quiet
  pending : u.state = .raisePending → t.state = .raisePending

theorem Truck.Takes.refl (t : Truck) : t.Takes t := ⟨id, id⟩

theorem Truck.Takes.trans {t u v : Truck} (a : t.Takes u) (b : u.Takes v) : t.Takes v :=
  ⟨b.quiet ∘ a.quiet, a.pending ∘ b.pending⟩

theorem Truck.Follows.takes {t u : Truck} (follows : t.Follows u) : t.Takes u := ⟨follows.quiet, follows.pending⟩

section Results
variable (s : State)

/-- A commit writes a limit issued to a DRAWING truck, or what any other command may write (R132). -/
theorem State.applyTarget_truck (k : Slot) (fleet : Option U16) (target : Nat) :
    (s.truck k).Follows ((s.applyTarget k fleet target).truck k) ∨
      (s.truck k).state = .drawing ∧ ∃ cut, (s.applyTarget k fleet target).truck k =
        { s.truck k with issued := target, cutAck := cut } := by
  dsimp only [State.applyTarget]
  split
  next holds =>
    split
    · exact .inl ((s.lowerOrder_follows k).trucks k)
    · refine .inr ⟨holds.2.1,
        (((s.setTruck k { s.truck k with issued := target }).evaluateCut k).truck k).cutAck, ?_⟩
      simp only [State.evaluateCut, State.truck_setTruck_same]
  next => exact .inl (.refl _)

theorem State.applyTarget_takes (k : Slot) (fleet : Option U16) (target : Nat) :
    (s.truck k).Takes ((s.applyTarget k fleet target).truck k) := by
  rcases s.applyTarget_truck k fleet target with follows | ⟨drawing, cut, eq⟩
  · exact follows.takes
  · rw [eq]
    exact ⟨fun _ _ => by show (s.truck k).state.issuing = true; rw [drawing]; rfl, id⟩

/-- What the results write: the records alone, each as `R` allows. -/
theorem State.applyResults_records {R : Truck → Truck → Prop} (refl : ∀ t, R t t)
    (trans : ∀ t u v, R t u → R u v → R t v) (l : List (SnapEntry × Nat))
    (result : ∀ (u : State) (r : SnapEntry × Nat), r ∈ l → ∀ k fleet req i x, r.1.kind = .truck k fleet .drawing req i x →
      R (u.truck k) ((u.applyTarget k fleet r.2).truck k)) :
    (∀ k, R (s.truck k) ((l.foldl State.applyResult s).truck k)) ∧
      l.foldl State.applyResult s = { s with trucks := (l.foldl State.applyResult s).trucks } := by
  refine List.foldlRecOn _ _
    (motive := fun t : State => (∀ k, R (s.truck k) (t.truck k)) ∧ t = { s with trucks := t.trucks })
    ⟨fun _ => refl _, rfl⟩ fun t ⟨records, frame⟩ r mem => ?_
  unfold State.applyResult
  split
  next k fleet st req i x kind =>
    split
    next drawing =>
      subst drawing
      have writes := t.applyTarget_writes k fleet r.2
      have written := result t r mem k fleet req i x kind
      rw [State.WritesTruck] at writes
      generalize t.applyTarget k fleet r.2 = v at writes written
      refine ⟨fun j => ?_, ?_⟩
      · rw [writes, State.truck_setTruck]
        split
        next same =>
          subst same
          exact trans _ _ _ (records j) written
        next => exact records j
      · rw [writes, frame]
        rfl
    next => exact ⟨records, frame⟩
  next => exact ⟨records, frame⟩

theorem State.applyResults_takes (l : List (SnapEntry × Nat)) :
    (∀ k, (s.truck k).Takes ((l.foldl State.applyResult s).truck k)) ∧
      l.foldl State.applyResult s = { s with trucks := (l.foldl State.applyResult s).trucks } :=
  s.applyResults_records .refl (fun _ _ _ => .trans) l fun u _ _ k fleet _ _ _ _ => u.applyTarget_takes k fleet _

/-- The commit's results, before its grant (R131, R132). -/
def State.resultsOf (x : Snapshot) : State :=
  (List.zip x.entries x.heldOrTargets).foldl State.applyResult { s with inFlight := none }

theorem State.resultsOf_def (x : Snapshot) :
    (List.zip x.entries x.heldOrTargets).foldl State.applyResult { s with inFlight := none } = s.resultsOf x := rfl

/-- The grant is applied at the commit (R111, R133). -/
def State.grantedBy (x : Snapshot) : Bool :=
  match x.grant with
  | none => false
  | some (h, _) => (s.resultsOf x).grantApplies h.slot h.fleet h.span

/-- The commit's results and its grant, where that applies (R111, R131, R132). -/
def State.afterGrant (x : Snapshot) : State :=
  match x.grant with
  | none => s.resultsOf x
  | some (h, a) => if s.grantedBy x then (s.resultsOf x).applyGrant h.slot h.span a else s.resultsOf x

theorem State.resultsOf_takes (x : Snapshot) :
    (∀ k, (s.truck k).Takes ((s.resultsOf x).truck k)) ∧
      s.resultsOf x = { s with inFlight := none, trucks := (s.resultsOf x).trucks } :=
  ({ s with inFlight := none } : State).applyResults_takes (List.zip x.entries x.heldOrTargets)

/-- The commit, in its parts: the results, the grant, the table and the shares (R131). -/
theorem State.commitOf_eq (x : Snapshot) :
    s.commitOf x = ({ s.afterGrant x with grants := x.table s.now (s.grantedBy x) } : State).takeShares
      (shares x.committedLoad).1 (shares x.committedLoad).2 := by
  have now : (s.resultsOf x).now = s.now := by rw [(s.resultsOf_takes x).2]
  have nowGranted (k : Slot) (span amount : Nat) : ((s.resultsOf x).applyGrant k span amount).now = s.now := now
  cases grant : x.grant with
  | none => simp only [State.commitOf, State.afterGrant, State.grantedBy, grant, State.resultsOf_def, now]
  | some g =>
    obtain ⟨h, a⟩ := g
    simp only [State.commitOf, State.afterGrant, State.grantedBy, grant, State.resultsOf_def]
    split
    · rw [nowGranted]
    · rw [now]

/-- The grant either applies, under the conditions of R111 and R133, or is discarded. -/
theorem State.afterGrant_cases (x : Snapshot) :
    (∃ h a, x.grant = some (h, a) ∧ (s.resultsOf x).grantApplies h.slot h.fleet h.span = true ∧
      s.grantedBy x = true ∧ s.afterGrant x = (s.resultsOf x).applyGrant h.slot h.span a) ∨
    (s.grantedBy x = false ∧ s.afterGrant x = s.resultsOf x) := by
  cases grant : x.grant with
  | none => exact .inr ⟨by rw [State.grantedBy, grant], by rw [State.afterGrant, grant]⟩
  | some g =>
    obtain ⟨h, a⟩ := g
    have applied : s.grantedBy x = (s.resultsOf x).grantApplies h.slot h.fleet h.span := by
      rw [State.grantedBy, grant]
    cases granted : s.grantedBy x with
    | true => exact .inl ⟨h, a, rfl, applied.symm.trans granted, rfl, by simp [State.afterGrant, grant, granted]⟩
    | false => exact .inr ⟨rfl, by simp [State.afterGrant, grant, granted]⟩

theorem Snapshot.gate_of_grant {x : Snapshot} {h : SnapHead} {a : Nat} (grant : x.grant = some (h, a)) :
    x.gate = true := by
  obtain ⟨-, gate, -⟩ := grant_eq_some_iff.1 grant
  exact gate

end Results

/-! ### Settings and resets -/

/-- The commands that write the configuration, its store, the inputs, or the section state on RUN. -/
def settles : Instr → Bool
  | .setSpan .. | .setSpanCount _ | .setParam .. | .store | .run | .storeWriteEnd _ | .detectorRise _
  | .detectorFall _ => true
  | _ => false

/-- The commands of the two resets (R156, R157). -/
def resets : Instr → Bool
  | .coldReset | .coldResetEnd | .warmRstNAssert | .warmResetEnd | .warmResetAfterAck => true
  | _ => false

/-- The trucks, the places, the computation in flight and the counters stand. -/
structure State.Rests (s t : State) : Prop where
  trucks : t.trucks = s.trucks
  queue : t.queue = s.queue
  line : t.line = s.line
  inFlight : t.inFlight = s.inFlight
  counters : ∀ p, (t.port p).checkErrors = (s.port p).checkErrors ∧ (t.port p).unknownKinds = (s.port p).unknownKinds

/-- The trucks, the places and the computation in flight are as after a reset, and no counter has risen. -/
structure State.Emptied (s t : State) : Prop where
  trucks : t.trucks = Vector.replicate 12 {}
  queue : t.queue = []
  line : t.line = []
  inFlight : t.inFlight = none
  counters : ∀ p, (t.port p).checkErrors ≤ (s.port p).checkErrors ∧ (t.port p).unknownKinds ≤ (s.port p).unknownKinds

section Writers
variable {s t u : State}

theorem State.rests_of_eq (trucks : t.trucks = s.trucks) (queue : t.queue = s.queue) (line : t.line = s.line)
    (inFlight : t.inFlight = s.inFlight) (ports : ∀ p, t.port p = s.port p) : s.Rests t :=
  ⟨trucks, queue, line, inFlight, fun p => by rw [ports p]; exact ⟨rfl, rfl⟩⟩

theorem State.Rests.refl (s : State) : s.Rests s := State.rests_of_eq rfl rfl rfl rfl fun _ => rfl

theorem State.Rests.trans (a : s.Rests t) (b : t.Rests u) : s.Rests u :=
  ⟨b.trucks.trans a.trucks, b.queue.trans a.queue, b.line.trans a.line, b.inFlight.trans a.inFlight,
    fun p => ⟨(b.counters p).1.trans (a.counters p).1, (b.counters p).2.trans (a.counters p).2⟩⟩

theorem State.Emptied.rests (a : s.Emptied t) (b : t.Rests u) : s.Emptied u :=
  ⟨b.trucks.trans a.trucks, b.queue.trans a.queue, b.line.trans a.line, b.inFlight.trans a.inFlight,
    fun p => ⟨(b.counters p).1 ▸ (a.counters p).1, (b.counters p).2 ▸ (a.counters p).2⟩⟩

theorem State.Rests.emptied (a : s.Rests t) (b : t.Emptied u) : s.Emptied u :=
  ⟨b.trucks, b.queue, b.line, b.inFlight,
    fun p => ⟨(a.counters p).1 ▸ (b.counters p).1, (a.counters p).2 ▸ (b.counters p).2⟩⟩

theorem State.Rests.truck (rests : s.Rests t) (k : Slot) : t.truck k = s.truck k := by
  rw [State.truck_def, State.truck_def, rests.trucks]

theorem State.Emptied.truck (emptied : s.Emptied t) (k : Slot) : t.truck k = {} := by
  rw [State.truck_def, emptied.trucks]
  exact Vector.getElem_replicate _

theorem State.rests_setPort {p : Port} {x : PortState} (check : x.checkErrors = (s.port p).checkErrors)
    (unknown : x.unknownKinds = (s.port p).unknownKinds) : s.Rests (s.setPort p x) := by
  refine ⟨s.setPort_trucks p x, s.setPort_queue p x, s.setPort_line p x, s.setPort_inFlight p x, fun q => ?_⟩
  rw [State.port_setPort]
  split
  next same => exact same ▸ ⟨check, unknown⟩
  next => exact ⟨rfl, rfl⟩

theorem State.rests_request {rule : Bool → State → State × Answer}
    (rules : ∀ u : State, u.Rests (rule s.isoBusy u).1) :
    s.Rests (s.request .dispatch fun s => s.abandoning rule) := by
  have abandoned : s.Rests { s with isoSeq := .none } := State.rests_of_eq rfl rfl rfl rfl fun _ => rfl
  unfold State.request
  split
  · exact (abandoned.trans (rules _)).trans (State.rests_setPort rfl rfl)
  · split
    · exact State.rests_setPort rfl rfl
    · exact .refl s

theorem exec_settles_rests {c : Instr} (setting : settles c = true) (next : exec c s = .next t) : s.Rests t := by
  have same {u v : State} (trucks : v.trucks = u.trucks) (queue : v.queue = u.queue) (line : v.line = u.line)
      (inFlight : v.inFlight = u.inFlight) (ports : ∀ p, v.port p = u.port p) : u.Rests v :=
    State.rests_of_eq trucks queue line inFlight ports
  cases c
  all_goals first | exact absurd setting Bool.false_ne_true | obtain rfl := Host.Outcome.next.inj next
  case setSpan i l r =>
    refine State.rests_request fun u => ?_
    unfold setSpanRule
    split
    · exact .refl u
    · split <;> exact same rfl rfl rfl rfl fun _ => rfl
  case setSpanCount n =>
    refine State.rests_request fun u => ?_
    unfold setSpanCountRule
    split <;> exact same rfl rfl rfl rfl fun _ => rfl
  case setParam n v =>
    refine State.rests_request fun u => ?_
    unfold setParamRule
    split
    · exact .refl u
    · split <;> exact same rfl rfl rfl rfl fun _ => rfl
  case store =>
    refine State.rests_request fun u => ?_
    unfold storeRule
    split
    · exact .refl u
    · split <;> exact same rfl rfl rfl rfl fun _ => rfl
  case run =>
    refine State.rests_request fun u => ?_
    unfold runRule
    split <;> exact same rfl rfl rfl rfl fun _ => rfl
  case storeWriteEnd agrees =>
    split
    · exact .refl s
    · split <;> exact same rfl rfl rfl rfl fun _ => rfl
  case detectorRise j =>
    dsimp only
    split <;> exact same rfl rfl rfl rfl fun _ => rfl
  case detectorFall j =>
    dsimp only
    split <;> exact same rfl rfl rfl rfl fun _ => rfl

theorem State.clearDynamic_emptied (s : State) : s.Emptied s.clearDynamic :=
  ⟨rfl, rfl, rfl, rfl, fun p => by cases p <;> exact ⟨Nat.le_refl _, Nat.le_refl _⟩⟩

theorem State.inputsRise_rests (s : State) : s.Rests s.inputsRise := by
  have frame := s.inputsRise_spec.2
  generalize s.inputsRise = t at frame
  rw [frame]
  exact State.rests_of_eq rfl rfl rfl rfl fun p => by cases p <;> rfl

theorem State.settleBars_rests (s : State) : s.Rests s.settleBars := by
  have frame := s.settleBars_spec.2
  generalize s.settleBars = t at frame
  rw [frame]
  exact State.rests_of_eq rfl rfl rfl rfl fun p => by cases p <;> rfl

theorem State.endCold_rests (s : State) : s.Rests s.endCold := by
  refine State.Rests.trans ?_ (State.inputsRise_rests _)
  unfold State.loadStored
  split <;> exact State.rests_of_eq rfl rfl rfl rfl fun _ => rfl

theorem State.endWarm_rests (s : State) : s.Rests s.endWarm :=
  have settled : s.Rests ({ s with warmHold := false } : State).settleSection :=
    State.rests_of_eq rfl rfl rfl rfl fun _ => rfl
  (settled.trans (State.settleBars_rests _)).trans (State.inputsRise_rests _)

/-- A command of the resets leaves the trucks and the places, or empties them. -/
theorem exec_resets_rests {c : Instr} (reset : resets c = true) (next : exec c s = .next t) :
    s.Rests t ∨ s.Emptied t := by
  have cleared {u v : State} (trucks : v.trucks = u.trucks) (queue : v.queue = u.queue) (line : v.line = u.line)
      (inFlight : v.inFlight = u.inFlight) (ports : ∀ p, v.port p = u.port p) : u.Rests v :=
    State.rests_of_eq trucks queue line inFlight ports
  cases c
  all_goals first | exact absurd reset Bool.false_ne_true | obtain rfl := Host.Outcome.next.inj next
  case coldReset => exact .inr ⟨rfl, rfl, rfl, rfl, fun p => by cases p <;> exact ⟨Nat.zero_le _, Nat.zero_le _⟩⟩
  case coldResetEnd =>
    have ended := s.endCold_rests
    generalize s.endCold = u at ended
    split
    · split
      · exact .inr ((ended.emptied u.clearDynamic_emptied).rests (cleared rfl rfl rfl rfl fun _ => rfl))
      · exact .inl ended
    · exact .inl (.refl s)
  case warmRstNAssert =>
    split
    · exact .inl (cleared rfl rfl rfl rfl fun _ => rfl)
    · split
      · exact .inl (.refl s)
      · exact .inr (s.clearDynamic_emptied.rests (cleared rfl rfl rfl rfl fun _ => rfl))
  case warmResetEnd =>
    have released : s.Rests { s with warmPin := false } := cleared rfl rfl rfl rfl fun _ => rfl
    split
    · exact .inl (released.trans (State.endWarm_rests _))
    · exact .inl released
  case warmResetAfterAck =>
    split
    · exact .inr (s.clearDynamic_emptied.rests (State.endWarm_rests _))
    · exact .inl (.refl s)

end Writers


/-! ### The kinds of commands -/

theorem command_cases (c : Instr) :
    writesSetup c = false ∨ settles c = true ∨ resets c = true ∨ c = .stop ∨ c = .cycleDeadline ∨ c = .commit ∨
      ∃ p b, c = .frameStart p b := by
  cases c
  case stop => exact .inr (.inr (.inr (.inl rfl)))
  case cycleDeadline => exact .inr (.inr (.inr (.inr (.inl rfl))))
  case commit => exact .inr (.inr (.inr (.inr (.inr (.inl rfl)))))
  case frameStart p b => exact .inr (.inr (.inr (.inr (.inr (.inr ⟨p, b, rfl⟩)))))
  all_goals first | exact .inl rfl | exact .inr (.inl rfl) | exact .inr (.inr (.inl rfl))

/-- RUNNING left by STOP, before the trucks are acted on (R123, R150). -/
def State.stopped (s : State) : State := { s with sect := .stopped, cycle := none, inFlight := none }

theorem stopRule_state (flag : Bool) (s : State) :
    (stopRule flag s).1 = if s.sect = .running then s.stopped.stopTrucks else s := by
  unfold stopRule
  cases sect : s.sect <;> simp [State.stopped]

/-- A request of the dispatch port that abandons a sequence leaves its rule's state but for the port, or the port
alone is written. -/
theorem State.request_abandoning_cases (s : State) (rule : Bool → State → State × Answer) :
    ∃ u x, (u = s ∨ u = (rule s.isoBusy { s with isoSeq := .none }).1 ∧ s.hears .dispatch = true) ∧
      (u.port .dispatch).CountsOn x ∧
      (s.request .dispatch fun s => s.abandoning rule) = u.setPort .dispatch x := by
  unfold State.request
  split
  next hears =>
    let u := (rule s.isoBusy { s with isoSeq := .none }).1
    exact ⟨u, { u.port .dispatch with rx := .hunt, tx := some ⟨(rule s.isoBusy { s with isoSeq := .none }).2, u.now⟩ },
      .inr ⟨rfl, hears⟩, PortState.countsOn_of_eq rfl rfl, rfl⟩
  next =>
    split
    · exact ⟨s, (s.port .dispatch).lose s.now, .inl rfl, PortState.countsOn_of_eq rfl rfl, rfl⟩
    · exact ⟨s, s.port .dispatch, .inl rfl, PortState.countsOn_of_eq rfl rfl, (s.setPort_port _).symm⟩

end Sys2Proof.Machine

namespace Sys2Proof.Machine

/-! ### At most one truck is RAISE_PENDING (O59) -/

section OnePending
variable {s t : State}

/-- No raise is granted, and no computation begun. -/
theorem State.OneRaisePending.of_pending (one : s.OneRaisePending)
    (pending : ∀ k, (t.truck k).state = .raisePending → (s.truck k).state = .raisePending)
    (inFlight : t.inFlight = s.inFlight ∨ t.inFlight = none) : t.OneRaisePending := by
  obtain ⟨once, gated⟩ := one
  refine ⟨fun j k atJ atK => once j k (pending j atJ) (pending k atK), fun x computing gate k atK => ?_⟩
  rcases inFlight with same | none
  · exact gated x (same ▸ computing) gate k (pending k atK)
  · exact nomatch none.symm.trans computing

theorem State.Follows.onePending (follows : s.Follows t) (one : s.OneRaisePending) : t.OneRaisePending :=
  one.of_pending (fun k => (follows.trucks k).pending) (.inl (congrArg Setup.inFlight follows.setup))

theorem State.Rests.onePending (rests : s.Rests t) (one : s.OneRaisePending) : t.OneRaisePending :=
  one.of_pending (fun k => by rw [rests.truck k]; exact id) (.inl rests.inFlight)

theorem State.Emptied.onePending (emptied : s.Emptied t) (one : s.OneRaisePending) : t.OneRaisePending :=
  one.of_pending (fun k => by rw [emptied.truck k]; exact nofun) (.inr emptied.inFlight)

theorem exec_stop_onePending (next : exec .stop s = .next t) (one : s.OneRaisePending) : t.OneRaisePending := by
  obtain rfl := Host.Outcome.next.inj next
  refine (State.request_abandoning_cases s stopRule).elim fun u ⟨x, before, counts, eq⟩ => ?_
  rw [eq]
  refine (State.follows_setPort counts).onePending ?_
  rcases before with rfl | ⟨rfl, -⟩
  · exact one
  · have abandoned := s.follows_abandoned.onePending one
    rw [stopRule_state]
    split
    · refine (State.stopTrucks_follows _).onePending (abandoned.of_pending (fun _ => id) (.inr rfl))
    · exact abandoned

theorem exec_cycleDeadline_onePending (next : exec .cycleDeadline s = .next t) (one : s.OneRaisePending) :
    t.OneRaisePending := by
  obtain rfl := Host.Outcome.next.inj next
  have marked := s.markSnapshot_follows.onePending one
  have state (k : Slot) : (s.markSnapshot.truck k).state = (s.truck k).state := by rw [s.markSnapshot_spec.1 k]
  generalize s.markSnapshot = u at marked state
  split
  · refine ⟨marked.1, fun x computing gate k pending => ?_⟩
    obtain rfl : s.snapshot = x := Option.some.inj computing
    have conditions : s.gateOpen = true := gate
    simp only [State.gateOpen, State.gateConditions, List.all_cons, Bool.and_eq_true, id_eq, List.all_eq_true,
      bne_iff_ne, ne_eq] at conditions
    exact conditions.2.2.2.2.1 k (mem_allSlots k) ((state k).symm.trans pending)
  · exact one

theorem State.commitOf_onePending {x : Snapshot} (computing : s.inFlight = some x) (one : s.OneRaisePending) :
    (s.commitOf x).OneRaisePending := by
  obtain ⟨records, frame⟩ := s.resultsOf_takes x
  have pending (k : Slot) (raising : ((s.resultsOf x).truck k).state = .raisePending) :
      (s.truck k).state = .raisePending := (records k).pending raising
  have committed (u : State) (table : GrantTable) (a b : Nat) (ended : u.inFlight = none)
      (once : ∀ j k, (u.truck j).state = .raisePending → (u.truck k).state = .raisePending → j = k) :
      (({ u with grants := table } : State).takeShares a b).OneRaisePending :=
    ⟨once, fun y computing => nomatch ended.symm.trans computing⟩
  rw [State.commitOf_eq]
  rcases s.afterGrant_cases x with ⟨h, a, grant, -, -, eq⟩ | ⟨-, eq⟩ <;> rw [eq]
  · have none (k : Slot) : ((s.resultsOf x).truck k).state ≠ .raisePending :=
      mt (pending k) (one.2 x computing (Snapshot.gate_of_grant grant) k)
    generalize s.resultsOf x = u at frame none
    refine committed _ _ _ _ (by rw [frame]; rfl) fun j k => ?_
    have granted (i : Slot) (raising : ((u.applyGrant h.slot h.span a).truck i).state = .raisePending) :
        i = h.slot := by
      refine Classical.byContradiction fun other => ?_
      rw [State.applyGrant, State.truck_setTruck_other _ other] at raising
      exact none i raising
    exact fun atJ atK => (granted j atJ).trans (granted k atK).symm
  · refine committed _ _ _ _ (by rw [frame]) fun j k atJ atK => one.1 j k (pending j atJ) (pending k atK)

theorem exec_commit_onePending (next : exec .commit s = .next t) (one : s.OneRaisePending) : t.OneRaisePending := by
  obtain rfl := Host.Outcome.next.inj next
  split
  · exact one
  next x computing =>
    split
    · exact State.commitOf_onePending computing one
    · exact one.of_pending (fun _ => id) (.inr rfl)

theorem State.oneRaisePending_onPorts : KeptOnPorts State.OneRaisePending := fun _ _ _ counts =>
  (State.follows_setPort counts).onePending

theorem exec_onePending {c : Instr} (next : exec c s = .next t) (one : s.OneRaisePending) : t.OneRaisePending := by
  refine State.oneRaisePending_onPorts.exec (fun c s t other next one => ?_) next one
  rcases command_cases c with kept | setting | reset | rfl | rfl | rfl | ⟨p, b, rfl⟩
  · exact (exec_follows kept next).onePending one
  · exact (exec_settles_rests setting next).onePending one
  · exact (exec_resets_rests reset next).elim (·.onePending one) (·.onePending one)
  · exact exec_stop_onePending next one
  · exact exec_cycleDeadline_onePending next one
  · exact exec_commit_onePending next one
  · exact nomatch other

end OnePending

/-- A step takes the front command on the queue's rest, or moves the time base and the queue alone. -/
theorem step_cases {s t : State} (next : step s = .next t) :
    (∃ c rest, s.pending = c :: rest ∧ exec c { s with pending := rest } = .next t) ∨
      ∃ pending choice now, t = { s with pending := pending, choice := choice, now := now } := by
  unfold step at next
  split at next
  · obtain rfl := Host.Outcome.next.inj next
    rcases tick_cases s with ⟨-, same⟩ | ⟨-, l, ⟨-, -, eq⟩ | ⟨-, -, eq⟩⟩
    · exact .inr ⟨s.pending, s.choice, s.now, same⟩
    · exact .inr ⟨l, s.choice + 1, s.now, eq⟩
    · exact .inr ⟨l, s.choice + 1, s.now + 1, eq⟩
  · next c rest front => exact .inl ⟨c, rest, front, next⟩

/-- Settles O59: a raise is granted by a commit alone, and only where the snapshot found the gate open. -/
theorem stepKeepsOneRaisePending : Obligations.StepKeepsOneRaisePending := by
  intro s t one next
  rcases step_cases next with ⟨c, rest, -, taken⟩ | ⟨pending, choice, now, rfl⟩
  · exact exec_onePending taken (one.of_pending (t := { s with pending := rest }) (fun _ => id) (.inl rfl))
  · exact one.of_pending (fun _ => id) (.inl rfl)

end Sys2Proof.Machine

namespace Sys2Proof.Machine

/-! ### Parameters in range, by number (R7, R8) -/

theorem paramRange_bounds_number {p : Params} {m lo hi : Nat} (found : paramRange p m = some (lo, hi)) :
    1 ≤ m ∧ m ≤ 23 := by
  refine Classical.byContradiction fun outside => ?_
  rw [paramRange_eq_none p (by omega)] at found
  exact nomatch found

/-- Every parameter between its bounds, 3 and 17 on their steps. -/
theorem Params.inRange_iff (p : Params) :
    p.InRange ↔ (∀ m lo hi, paramRange p m = some (lo, hi) → lo ≤ p.get m ∧ p.get m ≤ hi) ∧
      p.get 3 % 10 = 0 ∧ p.get 17 % 50 = 0 := by
  constructor
  · intro range
    unfold Params.InRange at range
    refine ⟨fun m lo hi found => ?_, by simp only [Params.get]; omega, by simp only [Params.get]; omega⟩
    unfold paramRange at found
    split at found
    case h_24 => exact nomatch found
    all_goals
      obtain ⟨rfl, rfl⟩ := Prod.mk.inj (Option.some.inj found)
      simp only [Params.get]
      omega
  · rintro ⟨bounds, step3, step17⟩
    have out := bounds 14 _ _ rfl
    have cycle := bounds 3 _ _ rfl
    have phantom := bounds 17 _ _ rfl
    refine ⟨bounds 1 _ _ rfl, (bounds 2 _ _ rfl).2, ⟨cycle.1, cycle.2, step3⟩, bounds 4 _ _ rfl, bounds 5 _ _ rfl,
      bounds 6 _ _ rfl, bounds 7 _ _ rfl, bounds 8 _ _ rfl, bounds 9 _ _ rfl, bounds 10 _ _ rfl, bounds 11 _ _ rfl,
      (bounds 12 _ _ rfl).2, bounds 13 _ _ rfl, ?_, bounds 15 _ _ rfl, bounds 16 _ _ rfl,
      ⟨phantom.1, phantom.2, step17⟩, bounds 18 _ _ rfl, bounds 19 _ _ rfl, bounds 20 _ _ rfl, bounds 21 _ _ rfl,
      bounds 22 _ _ rfl, bounds 23 _ _ rfl⟩
    exact ⟨Nat.le_trans (Nat.le_max_left _ _) out.1, Nat.le_trans (Nat.le_max_right _ _) out.1, out.2⟩

/-- Parameter 14 alone has a bound that depends on another parameter, the feed late threshold. -/
theorem paramRange_eq_of_feedLate {p q : Params} (late : q.feedLate = p.feedLate) (m : Nat) :
    paramRange q m = paramRange p m := by
  have ranges : q.ranges = p.ranges := by rw [Params.ranges, Params.ranges, late]
  by_cases named : 1 ≤ m ∧ m ≤ 23
  · rw [paramRange_eq q named.1 named.2, paramRange_eq p named.1 named.2, ranges]
  · rw [paramRange_eq_none q (by omega), paramRange_eq_none p (by omega)]

theorem paramRange_eq_of_ne {p q : Params} {m : Nat} (other : m ≠ 14) : paramRange q m = paramRange p m := by
  unfold paramRange
  split <;> first | rfl | exact absurd rfl other

/-- The clamped value lies between the bounds, which stand on the steps of parameters 3 and 17. -/
theorem takenValue_bounds {p : Params} {m lo hi : Nat} (found : paramRange p m = some (lo, hi)) (ordered : lo ≤ hi)
    (v : Nat) : lo ≤ takenValue m lo hi v ∧ takenValue m lo hi v ≤ hi := by
  rw [takenValue_eq]
  by_cases three : m = 3
  · subst three
    simp only [paramRange, Option.some.injEq, Prod.mk.injEq] at found
    obtain ⟨rfl, rfl⟩ := found
    simp only [if_true]
    omega
  · by_cases seventeen : m = 17
    · subst seventeen
      simp only [paramRange, Option.some.injEq, Prod.mk.injEq] at found
      obtain ⟨rfl, rfl⟩ := found
      simp only [if_neg three, if_true]
      omega
    · simp only [if_neg three, if_neg seventeen, Nat.div_one, Nat.mul_one]
      omega

theorem Params.InRange.taken {p : Params} (range : p.InRange) {m lo hi : Nat}
    (found : paramRange p m = some (lo, hi)) (v : Nat) : (p.taken m (takenValue m lo hi v)).InRange := by
  obtain ⟨least, most⟩ := paramRange_bounds_number found
  obtain ⟨bounds, step3, step17⟩ := p.inRange_iff.1 range
  have held := bounds m lo hi found
  obtain ⟨low, high⟩ := takenValue_bounds found (Nat.le_trans held.1 held.2) v
  have stepped := takenValue_eq m lo hi v
  generalize takenValue m lo hi v = w at low high stepped
  have get {i : Nat} (first : 1 ≤ i) (last : i ≤ 23) := p.get_taken w least most first last
  have late : (p.taken m w).feedLate = if m = 13 then w else p.feedLate := by
    refine (get (i := 13) (by omega) (by omega)).trans ?_
    by_cases own : m = 13
    · simp [own]
    · rw [if_neg (Ne.symm own), if_neg (by omega), if_neg own]
      rfl
  refine (Params.inRange_iff _).2 ⟨fun i lo' hi' foundI => ?_, ?_, ?_⟩
  · obtain ⟨leastI, mostI⟩ := paramRange_bounds_number foundI
    rw [get leastI mostI]
    by_cases raised : m = 13 ∧ i = 14
    · obtain ⟨rfl, rfl⟩ := raised
      have out := bounds 14 _ _ rfl
      rw [if_neg (by omega), if_pos ⟨rfl, rfl⟩]
      simp only [paramRange, late, if_true, Option.some.injEq, Prod.mk.injEq] at foundI found
      obtain ⟨rfl, rfl⟩ := foundI
      obtain ⟨rfl, rfl⟩ := found
      omega
    · have same : paramRange (p.taken m w) i = paramRange p i := by
        by_cases out : i = 14
        · refine paramRange_eq_of_feedLate ?_ i
          rw [late, if_neg fun own => raised ⟨own, out⟩]
        · exact paramRange_eq_of_ne out
      rw [same] at foundI
      rw [if_neg raised]
      split
      next own =>
        subst own
        obtain ⟨rfl, rfl⟩ := Prod.mk.inj (Option.some.inj (found.symm.trans foundI))
        exact ⟨low, high⟩
      next => exact bounds i lo' hi' foundI
  · rw [get (by omega) (by omega)]
    by_cases own : 3 = m
    · subst own
      simp only [if_true] at stepped ⊢
      omega
    · rw [if_neg own, if_neg (by omega)]
      exact step3
  · rw [get (by omega) (by omega)]
    by_cases own : 17 = m
    · subst own
      simp only [show ¬(17 = 3) by omega, if_false, if_true] at stepped ⊢
      omega
    · rw [if_neg own, if_neg (by omega)]
      exact step17

theorem Params.inRange_default : ({} : Params).InRange := by
  unfold Params.InRange
  decide

/-! ### The configuration in range -/

section Config
variable {s t : State}

/-- The configuration and the stored copy stand. -/
theorem State.ConfigInRange.of_eq (range : s.ConfigInRange) (params : t.params = s.params)
    (count : t.spanCount = s.spanCount) (spans : t.spans = s.spans) (storedParams : t.stored.params = s.stored.params)
    (storedCount : t.stored.spanCount = s.stored.spanCount) (storedSpans : t.stored.spans = s.stored.spans) :
    t.ConfigInRange := by
  unfold State.ConfigInRange at *
  rwa [params, count, spans, storedParams, storedCount, storedSpans]

theorem State.ConfigInRange.of_setup (range : s.ConfigInRange) (setup : t.setup = s.setup) : t.ConfigInRange := by
  have stored : t.stored = s.stored := congrArg Setup.stored setup
  exact range.of_eq (congrArg Setup.params setup) (congrArg Setup.spanCount setup) (congrArg Setup.spans setup)
    (by rw [stored]) (by rw [stored]) (by rw [stored])

theorem clamp_bounds {lo hi : Nat} (ordered : lo ≤ hi) (v : Nat) : lo ≤ clamp lo hi v ∧ clamp lo hi v ≤ hi := by
  unfold clamp
  omega

theorem setSpanRule_config (range : s.ConfigInRange) (index : Byte) (length : U16) (resistance : Byte) (flag : Bool) :
    (setSpanRule index length resistance flag s).1.ConfigInRange := by
  unfold setSpanRule
  split
  · exact range
  · split
    · exact range
    · obtain ⟨params, counts, records⟩ := range
      refine ⟨params, counts, fun i => ⟨?_, (records i).2⟩⟩
      show ((s.spans.setIfInBounds index.toNat _)[i]).InRange
      rw [Fin.getElem_fin, Vector.getElem_setIfInBounds]
      split
      · have span := clamp_bounds (show 50 ≤ 800 by decide) length.toNat
        have ohm := clamp_bounds (show 1 ≤ 255 by decide) resistance.toNat
        exact ⟨span, ohm⟩
      · exact (records i).1

theorem setSpanCountRule_config (range : s.ConfigInRange) (count : Byte) (flag : Bool) :
    (setSpanCountRule count flag s).1.ConfigInRange := by
  unfold setSpanCountRule
  split
  · exact range
  · obtain ⟨params, ⟨-, stored⟩, records⟩ := range
    refine ⟨params, ⟨fun m eq => ?_, stored⟩, records⟩
    obtain rfl := Option.some.inj eq
    exact clamp_bounds (by decide) _

theorem setParamRule_config (range : s.ConfigInRange) (number : Byte) (value : U16) (flag : Bool) :
    (setParamRule number value flag s).1.ConfigInRange := by
  cases found : paramRange s.params number.toNat with
  | none =>
    rw [setParamRule_noSuchEntry found]
    exact range
  | some bounds =>
    by_cases idle : s.store = .idle
    · rw [setParamRule_taken found idle]
      obtain ⟨⟨params, stored⟩, counts, records⟩ := range
      exact ⟨⟨params.taken found _, stored⟩, counts, records⟩
    · rw [setParamRule_storeBusy found idle]
      exact range

theorem State.loadStored_config (range : s.ConfigInRange) : s.loadStored.ConfigInRange := by
  obtain ⟨⟨-, params⟩, ⟨-, count⟩, records⟩ := range
  unfold State.loadStored
  split
  · exact ⟨⟨params, params⟩, ⟨count, count⟩, fun i => ⟨(records i).2, (records i).2⟩⟩
  · refine ⟨⟨Params.inRange_default, params⟩, ⟨nofun, count⟩, fun i => ⟨?_, (records i).2⟩⟩
    show ((Vector.replicate 16 ({} : SpanRec))[i]).InRange
    rw [Fin.getElem_fin, Vector.getElem_replicate]
    exact ⟨rfl, rfl⟩

theorem State.inputsRise_config (range : s.ConfigInRange) : s.inputsRise.ConfigInRange := by
  have frame := s.inputsRise_spec.2
  generalize s.inputsRise = t at frame
  rw [frame]
  exact range.of_eq rfl rfl rfl rfl rfl rfl

theorem State.endCold_config (range : s.ConfigInRange) : s.endCold.ConfigInRange := by
  have loaded := State.loadStored_config range
  refine State.inputsRise_config ?_
  generalize s.loadStored = u at loaded
  exact loaded.of_eq rfl rfl rfl rfl rfl rfl

theorem State.endWarm_config (range : s.ConfigInRange) : s.endWarm.ConfigInRange := by
  have settled : ({ s with warmHold := false } : State).settleSection.ConfigInRange :=
    range.of_eq rfl rfl rfl rfl rfl rfl
  refine State.inputsRise_config ?_
  generalize ({ s with warmHold := false } : State).settleSection = u at settled
  have frame := u.settleBars_spec.2
  generalize u.settleBars = t at frame
  rw [frame]
  exact settled.of_eq rfl rfl rfl rfl rfl rfl

theorem State.configInRange_onPorts : KeptOnPorts State.ConfigInRange := fun s p x _ range =>
  range.of_setup (s.setup_setPort p x)

theorem exec_settles_config {c : Instr} (setting : settles c = true) (next : exec c s = .next t)
    (range : s.ConfigInRange) : t.ConfigInRange := by
  have request {rule : Bool → State → State × Answer}
      (rules : ∀ u : State, u.ConfigInRange → (rule s.isoBusy u).1.ConfigInRange) :
      (s.request .dispatch fun s => s.abandoning rule).ConfigInRange :=
    State.configInRange_onPorts.request (rule := fun s => s.abandoning rule)
      (fun _ => rules _ (range.of_eq rfl rfl rfl rfl rfl rfl)) _ range
  cases c
  all_goals first | exact absurd setting Bool.false_ne_true | obtain rfl := Host.Outcome.next.inj next
  case setSpan i l r => exact request fun u range => setSpanRule_config range i l r _
  case setSpanCount n => exact request fun u range => setSpanCountRule_config range n _
  case setParam n v => exact request fun u range => setParamRule_config range n v _
  case store =>
    refine request fun u range => ?_
    unfold storeRule
    split
    · exact range
    · split <;> exact range.of_eq rfl rfl rfl rfl rfl rfl
  case run =>
    refine request fun u range => ?_
    unfold runRule
    split <;> exact range.of_eq rfl rfl rfl rfl rfl rfl
  case storeWriteEnd agrees =>
    split
    · exact range
    · split
      · obtain ⟨⟨params, -⟩, ⟨count, -⟩, records⟩ := range
        exact ⟨⟨params, params⟩, ⟨count, count⟩, fun i => ⟨(records i).1, (records i).1⟩⟩
      · exact range.of_eq rfl rfl rfl rfl rfl rfl
  case detectorRise j =>
    dsimp only
    split <;> exact range.of_eq rfl rfl rfl rfl rfl rfl
  case detectorFall j =>
    dsimp only
    split <;> exact range.of_eq rfl rfl rfl rfl rfl rfl

theorem exec_resets_config {c : Instr} (reset : resets c = true) (next : exec c s = .next t)
    (range : s.ConfigInRange) : t.ConfigInRange := by
  cases c
  all_goals first | exact absurd reset Bool.false_ne_true | obtain rfl := Host.Outcome.next.inj next
  case coldReset => exact range.of_eq rfl rfl rfl rfl rfl rfl
  case coldResetEnd =>
    have ended := State.endCold_config range
    generalize s.endCold = u at ended
    split
    · split
      · exact ended.of_eq rfl rfl rfl rfl rfl rfl
      · exact ended
    · exact range
  case warmRstNAssert =>
    split
    · exact range.of_eq rfl rfl rfl rfl rfl rfl
    · split <;> exact range.of_eq rfl rfl rfl rfl rfl rfl
  case warmResetEnd =>
    have released : ({ s with warmPin := false } : State).ConfigInRange := range.of_eq rfl rfl rfl rfl rfl rfl
    split
    · exact State.endWarm_config released
    · exact released
  case warmResetAfterAck =>
    have cleared : s.clearDynamic.ConfigInRange := range.of_eq rfl rfl rfl rfl rfl rfl
    split
    · exact State.endWarm_config cleared
    · exact range

end Config

end Sys2Proof.Machine

namespace Sys2Proof.Machine

/-! ### Every range is kept (O56) -/

section Ranges
variable {s t : State}

theorem State.RangesHold.currentsHeld (holds : s.RangesHold) : s.CurrentsHeld := by
  obtain ⟨⟨⟨⟨-, -, -, -, -, -, -, -, -, -, -, -, -, -, -, -, ⟨-, phantom, -⟩, -⟩, -⟩, -⟩, -, trucks, entries, -⟩ := holds
  exact ⟨phantom, trucks, entries⟩

theorem State.Follows.ranges (follows : s.Follows t) (holds : s.RangesHold) : t.RangesHold := by
  obtain ⟨-, trucks, entries⟩ := follows.currents holds.currentsHeld
  obtain ⟨config, counters, -, -, computing⟩ := holds
  have inFlight : t.inFlight = s.inFlight := congrArg Setup.inFlight follows.setup
  exact ⟨config.of_setup follows.setup, follows.counters counters, trucks, entries, inFlight ▸ computing⟩

theorem State.Rests.ranges (rests : s.Rests t) (config : t.ConfigInRange) (holds : s.RangesHold) : t.RangesHold := by
  obtain ⟨-, counters, trucks, entries, computing⟩ := holds
  refine ⟨config, fun p => ?_, fun k => ?_, rests.line ▸ entries, rests.inFlight ▸ computing⟩
  · rw [(rests.counters p).1, (rests.counters p).2]
    exact counters p
  · rw [rests.truck k]
    exact trucks k

theorem State.Emptied.ranges (emptied : s.Emptied t) (config : t.ConfigInRange) (holds : s.RangesHold) :
    t.RangesHold := by
  obtain ⟨-, counters, -⟩ := holds
  refine ⟨config, fun p => ?_, fun k => ?_, by rw [emptied.line]; exact nofun, by rw [emptied.inFlight]; exact nofun⟩
  · exact ⟨Nat.le_trans (emptied.counters p).1 (counters p).1, Nat.le_trans (emptied.counters p).2 (counters p).2⟩
  · rw [emptied.truck k]
    unfold Truck.CurrentsInRange
    decide

/-- A computation given up, or none begun: the fields that no range speaks of are free. -/
theorem State.RangesHold.of_eq (holds : s.RangesHold) (setup : t.stored = s.stored ∧ t.params = s.params ∧
    t.spanCount = s.spanCount ∧ t.spans = s.spans) (trucks : t.trucks = s.trucks) (line : t.line = s.line)
    (inFlight : t.inFlight = s.inFlight ∨ t.inFlight = none) (ports : ∀ p, t.port p = s.port p) : t.RangesHold := by
  obtain ⟨config, counters, currents, entries, computing⟩ := holds
  obtain ⟨stored, params, count, spans⟩ := setup
  refine ⟨config.of_eq params count spans (by rw [stored]) (by rw [stored]) (by rw [stored]),
    fun p => by rw [ports p]; exact counters p, fun k => ?_, line ▸ entries, fun x inT => ?_⟩
  · rw [State.truck_def, trucks]
    exact currents k
  · rcases inFlight with same | none
    · exact computing x (same ▸ inT)
    · exact nomatch none.symm.trans inT

theorem exec_stop_ranges (next : exec .stop s = .next t) (holds : s.RangesHold) : t.RangesHold := by
  obtain rfl := Host.Outcome.next.inj next
  obtain ⟨u, x, before, counts, eq⟩ := State.request_abandoning_cases s stopRule
  show (s.request .dispatch fun s => s.abandoning stopRule).RangesHold
  rw [eq]
  refine (State.follows_setPort counts).ranges ?_
  rcases before with rfl | ⟨rfl, -⟩
  · exact holds
  · have abandoned := s.follows_abandoned.ranges holds
    rw [stopRule_state]
    split
    · refine (State.stopTrucks_follows _).ranges (abandoned.of_eq ⟨rfl, rfl, rfl, rfl⟩ rfl rfl (.inr rfl) fun _ => rfl)
    · exact abandoned

theorem State.snapEntry_request (holds : s.RangesHold) (e : Entry) : (s.snapEntry e).request ≤ 3000 := by
  obtain ⟨-, -, currents, -, -⟩ := holds
  unfold State.snapEntry SnapEntry.request
  cases e.kind with
  | truck k => exact (currents k).1
  | phantom => exact Nat.zero_le _

theorem exec_cycleDeadline_ranges (next : exec .cycleDeadline s = .next t) (holds : s.RangesHold) : t.RangesHold := by
  obtain rfl := Host.Outcome.next.inj next
  have marked := s.markSnapshot_follows.ranges holds
  generalize s.markSnapshot = u at marked
  split
  · obtain ⟨config, counters, currents, entries, -⟩ := marked
    refine ⟨config.of_eq rfl rfl rfl rfl rfl rfl, fun p => by have bounded := counters p; cases p <;> exact bounded,
      currents, entries,
      fun x computing => ?_⟩
    obtain rfl : s.snapshot = x := Option.some.inj computing
    refine ⟨fun e mem => ?_, fun h head => ?_⟩
    · obtain ⟨f, -, rfl⟩ := List.mem_map.1 mem
      exact s.snapEntry_request holds f
    · obtain ⟨e, -, rfl⟩ := Option.map_eq_some_iff.1 head
      exact (holds.2.2.1 e.slot).1
  · exact holds

/-! ### The limits that a commit issues (R127, R129, R132) -/

/-- A target and a raise's amount are multiples of the grant quantum within the request. -/
theorem Snapshot.target_range {x : Snapshot} (requests : ∀ e ∈ x.entries, e.request ≤ 3000) {r : SnapEntry × Nat}
    (mem : r ∈ List.zip x.entries x.heldOrTargets) {k : Slot} {fleet : Option U16} {req iMin expo : Nat}
    (kind : r.1.kind = .truck k fleet .drawing req iMin expo) : r.2 ≤ 3000 ∧ r.2 % 50 = 0 := by
  obtain ⟨i, place⟩ := List.mem_iff_getElem?.1 mem
  obtain ⟨entry, target⟩ := List.getElem?_zip_eq_some.1 place
  obtain ⟨drawing, -, candidate, -⟩ := SnapEntry.of_kind_drawing kind
  have request := requests r.1 (List.mem_of_getElem? entry)
  rw [SnapEntry.request, kind] at request
  rcases target_shape entry drawing target with zero | ⟨-, most, step⟩
  · rw [zero]
    exact ⟨Nat.zero_le _, rfl⟩
  · rw [candidate] at most
    exact ⟨Nat.le_trans most request, step⟩

theorem Snapshot.amount_range {x : Snapshot} {h : SnapHead} {a : Nat} (grant : x.grant = some (h, a))
    (request : h.request ≤ 3000) : a ≤ 3000 ∧ a % 50 = 0 := by
  obtain ⟨-, -, -, -, -, rfl, positive⟩ := grant_eq_some_iff.1 grant
  rcases headroom_shape x.chargesSet ⟨h.span, h.request, h.iMin, false⟩ with zero | ⟨-, most, step⟩
  · exact absurd zero (Nat.ne_of_gt positive)
  · exact ⟨Nat.le_trans most request, step⟩

theorem State.resultsOf_currents {x : Snapshot} (requests : ∀ e ∈ x.entries, e.request ≤ 3000) (k : Slot)
    (range : (s.truck k).CurrentsInRange) : ((s.resultsOf x).truck k).CurrentsInRange := by
  refine (({ s with inFlight := none } : State).applyResults_records
    (R := fun t u => t.CurrentsInRange → u.CurrentsInRange) (fun _ => id) (fun _ _ _ a b => b ∘ a)
    (List.zip x.entries x.heldOrTargets) fun u r mem k fleet req i expo kind range => ?_).1 k range
  rcases u.applyTarget_truck k fleet r.2 with follows | ⟨-, cut, eq⟩
  · exact follows.currents range
  · obtain ⟨request, iMin, -, rest⟩ := range
    rw [eq]
    exact ⟨request, iMin, Snapshot.target_range requests mem kind, rest⟩

theorem State.commitOf_ranges {x : Snapshot} (computing : s.inFlight = some x) (holds : s.RangesHold) :
    (s.commitOf x).RangesHold := by
  obtain ⟨config, counters, currents, entries, requests⟩ := holds
  obtain ⟨requestsOf, headOf⟩ := requests x computing
  have given (k : Slot) := State.resultsOf_currents requestsOf k (currents k)
  have frame := (s.resultsOf_takes x).2
  have base : (s.resultsOf x).RangesHold := by
    generalize s.resultsOf x = u at given frame
    refine ⟨?_, fun p => ?_, given, ?_, ?_⟩ <;> rw [frame]
    · exact config.of_eq rfl rfl rfl rfl rfl rfl
    · have bounded := counters p
      cases p <;> exact bounded
    · exact entries
    · exact nofun
  have ended : (s.resultsOf x).inFlight = none := by rw [frame]
  have handed (u : State) (table : GrantTable) (a b : Nat) (holds : u.RangesHold) :
      (({ u with grants := table } : State).takeShares a b).RangesHold :=
    holds.of_eq ⟨rfl, rfl, rfl, rfl⟩ rfl rfl (.inl rfl) fun p => by cases p <;> rfl
  rw [State.commitOf_eq]
  rcases s.afterGrant_cases x with ⟨h, a, grant, -, -, eq⟩ | ⟨-, eq⟩ <;> rw [eq]
  · refine handed _ _ _ _ ?_
    obtain ⟨-, -, head, -⟩ := grant_eq_some_iff.1 grant
    have amount := Snapshot.amount_range grant (headOf h head)
    generalize s.resultsOf x = u at base ended
    obtain ⟨config, counters, currents, entries, -⟩ := base
    refine ⟨config.of_eq rfl rfl rfl rfl rfl rfl, fun p => by have bounded := counters p; cases p <;> exact bounded,
      fun k => ?_,
      fun e mem => ?_, fun y inT => nomatch ended.symm.trans inT⟩
    · rw [State.applyGrant, State.truck_setTruck]
      split
      · obtain ⟨request, iMin, -, rest⟩ := currents h.slot
        exact ⟨request, iMin, amount, rest⟩
      · exact currents k
    · rcases mem_insertEntry.1 mem with rfl | old
      · exact Nat.zero_le _
      · exact entries e old
  · exact handed _ _ _ _ base

theorem exec_commit_ranges (next : exec .commit s = .next t) (holds : s.RangesHold) : t.RangesHold := by
  obtain rfl := Host.Outcome.next.inj next
  split
  · exact holds
  next x computing =>
    split
    · exact State.commitOf_ranges computing holds
    · exact holds.of_eq ⟨rfl, rfl, rfl, rfl⟩ rfl rfl (.inr rfl) fun _ => rfl

theorem State.rangesHold_onPorts : KeptOnPorts State.RangesHold := fun _ _ _ counts =>
  (State.follows_setPort counts).ranges

theorem exec_ranges {c : Instr} (next : exec c s = .next t) (holds : s.RangesHold) : t.RangesHold := by
  refine State.rangesHold_onPorts.exec (fun c s t other next holds => ?_) next holds
  rcases command_cases c with kept | setting | reset | rfl | rfl | rfl | ⟨p, b, rfl⟩
  · exact (exec_follows kept next).ranges holds
  · exact (exec_settles_rests setting next).ranges (exec_settles_config setting next holds.1) holds
  · have config := exec_resets_config reset next holds.1
    exact (exec_resets_rests reset next).elim (·.ranges config holds) (·.ranges config holds)
  · exact exec_stop_ranges next holds
  · exact exec_cycleDeadline_ranges next holds
  · exact exec_commit_ranges next holds
  · exact nomatch other

end Ranges

/-- Settles O56: only a parameter write, a report and a commit's limits write numbers, each within its range. -/
theorem stepKeepsRanges : Obligations.StepKeepsRanges := by
  intro s t holds next
  rcases step_cases next with ⟨c, rest, -, taken⟩ | ⟨pending, choice, now, rfl⟩
  · exact exec_ranges taken (holds.of_eq ⟨rfl, rfl, rfl, rfl⟩ rfl rfl (.inl rfl) fun _ => rfl)
  · exact holds.of_eq ⟨rfl, rfl, rfl, rfl⟩ rfl rfl (.inl rfl) fun p => by cases p <;> rfl

end Sys2Proof.Machine

namespace Sys2Proof.Machine

/-! ### What the section promises outside a reset -/

/-- The promises of `State.SectionHolds` outside a reset, block by block. -/
structure State.Settled (s : State) : Prop where
  trucks : ∀ k, (s.truck k).Quiet
  issued : s.sect ≠ .running → ∀ k, (s.truck k).issued = 0
  queue : s.QueueInSection
  idle : s.sect ≠ .running → s.inFlight = none ∧ s.cycle = none
  wire : s.WireTidy
  config : (s.sect = .unconfigured ↔ s.valid = false) ∧ s.derived = s.computeNet
  sequence : s.SequenceInSection

section Settled
variable {s t : State}

theorem State.resets_of_inReset (awake : s.inReset = false) : s.coldReset = false ∧ s.warmHold = false :=
  Bool.or_eq_false_iff.1 awake

theorem State.sectionHolds_iff (awake : s.inReset = false) : s.SectionHolds ↔ s.Settled := by
  obtain ⟨notCold, notWarm⟩ := State.resets_of_inReset awake
  constructor
  · rintro ⟨-, ⟨quiet, outside⟩, ⟨line, queue⟩, bars, config, sequence⟩
    refine ⟨fun k issued => (TruckState.issuing_iff _).2 (quiet k issued), fun stopped => (outside stopped).1,
      fun e mem => ⟨?_, queue e mem⟩, fun stopped => (outside stopped).2.2, ⟨line, bars awake⟩, config notCold, sequence⟩
    refine Classical.byContradiction fun stopped => ?_
    rw [(outside stopped).2.1] at mem
    exact nomatch mem
  · rintro ⟨quiet, issued, queue, idle, ⟨line, bars⟩, config, sequence⟩
    refine ⟨⟨fun reset => absurd (awake.symm.trans reset) Bool.false_ne_true, fun both => ?_⟩,
      ⟨fun k some => (TruckState.issuing_iff _).1 (quiet k some), fun stopped => ⟨issued stopped, ?_, idle stopped⟩⟩,
      ⟨line, fun e mem => (queue e mem).2⟩, fun _ => bars, fun _ => config, sequence⟩
    · exact absurd (notCold.symm.trans both.1) Bool.false_ne_true
    · exact List.eq_nil_iff_forall_not_mem.2 fun e mem => stopped (queue e mem).1

theorem State.ConfigInRange.hasSpans (range : s.ConfigInRange) : s.HasSpans := by
  obtain ⟨-, ⟨count, -⟩, -⟩ := range
  intro n eq
  rw [State.n] at eq
  split at eq
  · exact Nat.lt_of_lt_of_le (by decide) (count n eq).1
  · exact nomatch eq

theorem State.valid_of_setup (setup : t.setup = s.setup) : t.valid = s.valid := by
  rw [State.valid, State.valid, show t.spanCount = s.spanCount from congrArg Setup.spanCount setup,
    show t.spans = s.spans from congrArg Setup.spans setup]

theorem State.computeNet_of_setup (setup : t.setup = s.setup) : t.computeNet = s.computeNet := by
  rw [State.computeNet, State.computeNet, State.n_of_setup setup,
    show t.spans = s.spans from congrArg Setup.spans setup]

theorem State.inReset_of_setup (setup : t.setup = s.setup) : t.inReset = s.inReset := by
  rw [State.inReset, State.inReset, show t.coldReset = s.coldReset from congrArg Setup.coldReset setup,
    show t.warmHold = s.warmHold from congrArg Setup.warmHold setup]

theorem State.Follows.settled (follows : s.Follows t) (spans : s.HasSpans) (settled : s.Settled) : t.Settled := by
  obtain ⟨quiet, issued, queue, idle, wire, config, sequence⟩ := settled
  have sect : t.sect = s.sect := State.sect_of_setup follows.setup
  have derived : t.derived = s.derived := congrArg Setup.derived follows.setup
  refine ⟨fun k => (follows.trucks k).quiet (quiet k), fun stopped k => ?_, follows.queue queue, fun stopped => ?_,
    follows.wire spans wire, ?_, follows.sequence sequence⟩
  · rcases (follows.trucks k).issued with none | ⟨same, -⟩
    · exact none
    · exact same.trans (issued (sect ▸ stopped) k)
  · rw [show t.inFlight = s.inFlight from congrArg Setup.inFlight follows.setup,
      show t.cycle = s.cycle from congrArg Setup.cycle follows.setup]
    exact idle (sect ▸ stopped)
  · rw [sect, State.valid_of_setup follows.setup, derived, State.computeNet_of_setup follows.setup]
    exact config

theorem State.Follows.sectionHolds (follows : s.Follows t) (awake : s.inReset = false) (spans : s.HasSpans)
    (holds : s.SectionHolds) : t.SectionHolds :=
  (State.sectionHolds_iff ((State.inReset_of_setup follows.setup).trans awake)).2
    (follows.settled spans ((State.sectionHolds_iff awake).1 holds))

/-- Fields that the withins promises do not speak of are free. -/
theorem State.Settled.of_eq (settled : s.Settled) (sect : t.sect = s.sect) (trucks : t.trucks = s.trucks)
    (queue : t.queue = s.queue) (idle : t.sect ≠ .running → t.inFlight = none ∧ t.cycle = none)
    (line : t.line = s.line) (states : t.spanStates = s.spanStates) (count : t.spanCount = s.spanCount)
    (spans : t.spans = s.spans) (derived : t.derived = s.derived) (sequence : t.isoSeq = s.isoSeq) : t.Settled := by
  obtain ⟨quiet, issued, entries, -, wire, config, range⟩ := settled
  have truck (k : Slot) : t.truck k = s.truck k := by rw [State.truck_def, State.truck_def, trucks]
  have valid : t.valid = s.valid := by rw [State.valid, State.valid, count, spans]
  have n : t.n = s.n := by rw [State.n, State.n, valid, count]
  have inside (i : Nat) : t.inSection i = s.inSection i := State.inSection_of_n n i
  have net : t.computeNet = s.computeNet := by rw [State.computeNet, State.computeNet, n, spans]
  have occupied (i : Nat) : t.occupied i = s.occupied i := by rw [State.occupied, State.occupied, line]
  have spanState (i : Nat) : t.spanState i = s.spanState i := by rw [State.spanState, State.spanState, states]
  refine ⟨?_, ?_, ?_, idle, ?_, ?_, ?_⟩
  · simpa only [truck] using quiet
  · simpa only [truck, sect] using issued
  · simpa only [State.QueueInSection, queue, sect, inside] using entries
  · simpa only [State.WireTidy, line, inside, spanState, occupied] using wire
  · simpa only [sect, valid, derived, net] using config
  · simpa only [State.SequenceInSection, sequence, inside] using range

end Settled

/-! ### What the section promises in a reset -/

/-- Every block holds its reset values; of the event flags those of a store write may be set (R156, R157). -/
def State.Holding (s : State) : Prop :=
  { s.clearDynamic with events := { storeDone := s.events.storeDone, storeFailed := s.events.storeFailed } } = s

section Holding
variable {s t : State}

theorem State.Holding.blocks (held : s.Holding) :
    s.trucks = Vector.replicate 12 {} ∧ s.line = [] ∧ s.queue = [] ∧ s.channels = Vector.replicate 17 {} ∧
      s.spacing = none ∧ s.cycle = none ∧ s.inFlight = none ∧ s.isoSeq = .none ∧ s.warmAsked = false ∧
      (∀ f, s.side f = {}) ∧ ∀ p, s.port p = (s.port p).quiet := by
  refine ⟨(congrArg State.trucks held).symm, (congrArg State.line held).symm, (congrArg State.queue held).symm,
    (congrArg State.channels held).symm, (congrArg State.spacing held).symm, (congrArg State.cycle held).symm,
    (congrArg State.inFlight held).symm, (congrArg State.isoSeq held).symm, (congrArg State.warmAsked held).symm,
    fun f => ?_, fun p => ?_⟩
  · have side := (congrArg (fun u : State => u.side f) held).symm
    cases f <;> exact side
  · have port := (congrArg (fun u : State => u.port p) held).symm
    cases p <;> exact port

theorem State.Holding.truck (held : s.Holding) (k : Slot) : s.truck k = {} := by
  rw [State.truck_def, held.blocks.1]
  exact Vector.getElem_replicate _

theorem State.Holding.channel (held : s.Holding) (j : Joint) : s.channel j = {} := by
  obtain ⟨-, -, -, channels, -⟩ := held.blocks
  rw [State.channel_def, channels]
  exact Vector.getElem_replicate _

/-- The promises of the section in a reset: the blocks hold their reset values and the configuration is settled. -/
theorem State.sectionHolds_of_holding (held : s.Holding) (reset : s.inReset = true)
    (one : ¬(s.coldReset = true ∧ s.warmHold = true)) (config : s.ConfigSettled) : s.SectionHolds := by
  obtain ⟨-, line, queue, -, -, cycle, inFlight, isoSeq, -⟩ := held.blocks
  have none (k : Slot) : (s.truck k).issued = 0 := by rw [held.truck k]
  refine ⟨⟨fun _ => held, one⟩, ⟨fun k issued => absurd (none k) issued, fun _ => ⟨none, queue, inFlight, cycle⟩⟩,
    ⟨?_, ?_⟩, fun awake => absurd (awake.symm.trans reset) Bool.false_ne_true, config, .of_none isoSeq⟩
  · rw [line]
    exact nofun
  · rw [queue]
    exact nofun

/-- The commands of the tick other than a port's, a store's and a commit's end. -/
def deadline : Instr → Bool
  | .blankingDeadline _ | .overlongDeadline _ | .feedLateDeadline _ | .feedOutDeadline _ | .shedDeadline _
  | .idleDeadline _ | .holdoffExpiry _ | .raiseConfirmDeadline _ | .lowerConfirmDeadline _ | .cutAcknowledgeDeadline _
  | .silenceDeadline _ | .silentHoldDeadline _ | .queueWaitDeadline _ | .spacingDeadline | .nextJointDeadline _
  | .lostDeadline _ | .phantomExpiry _ | .cycleDeadline => true
  | _ => false

/-- No deadline is set in a reset, so none passes. -/
theorem State.Holding.exec_deadline (held : s.Holding) {c : Instr} (passes : deadline c = true) :
    exec c s = .next s := by
  obtain ⟨-, line, -, -, spacing, cycle, -, -, -, sides, -⟩ := held.blocks
  have absent {d : Option Time} (none : d = none) {p : Prop} : ¬(due d s.now = true ∧ p) := by
    rw [none]
    exact fun passed => Bool.false_ne_true passed.1
  have channel (j : Joint) := held.channel j
  have truck (k : Slot) := held.truck k
  have noEntry {p : Entry → Prop} : ∀ e ∈ s.line, p e := by
    rw [line]
    exact nofun
  have unset {d : Option Time} (none : d = none) : ¬due d s.now = true := by
    rw [none]
    exact Bool.false_ne_true
  cases c
  all_goals first | exact absurd passes Bool.false_ne_true | skip
  case blankingDeadline j => exact congrArg Host.Outcome.next (if_neg (absent (by rw [channel j])))
  case overlongDeadline j => exact exec_overlongDeadline_idle (absent (by rw [channel j]))
  case feedLateDeadline f => exact congrArg Host.Outcome.next (if_neg (absent (by rw [sides f])))
  case feedOutDeadline f => exact congrArg Host.Outcome.next (if_neg (absent (by rw [sides f])))
  case shedDeadline f => exact congrArg Host.Outcome.next (if_neg (absent (by rw [sides f])))
  case holdoffExpiry k => exact congrArg Host.Outcome.next (if_neg (unset (by rw [truck k])))
  case spacingDeadline => exact congrArg Host.Outcome.next (if_neg (unset spacing))
  case nextJointDeadline r => exact exec_nextJointDeadline_out noEntry
  case lostDeadline r => exact exec_lostDeadline_out noEntry
  case phantomExpiry n => exact exec_phantomExpiry_out noEntry
  case cycleDeadline => exact congrArg Host.Outcome.next (if_neg (absent cycle))
  all_goals
    next k => exact congrArg Host.Outcome.next (if_neg (absent (by rw [truck k])))

theorem State.Holding.exec_port (held : s.Holding) (p : Port) :
    exec (.frameTimeout p) s = .next s ∧ exec (.answerSent p) s = .next s := by
  obtain ⟨-, -, -, -, -, -, -, -, -, -, ports⟩ := held.blocks
  have quiet := ports p
  refine ⟨exec_frameTimeout_early (fun a start => ?_) fun a start => ?_, ?_⟩
  · rw [quiet] at start
    exact nomatch start
  · rw [quiet] at start
    exact nomatch start
  · have same : ({ s.port p with tx := none, lostRx := .hunt } : PortState) = s.port p := by
      rw [quiet]
      rfl
    show Host.Outcome.next (s.setPort p { s.port p with tx := none, lostRx := .hunt }) = .next s
    rw [same, State.setPort_port]

/-- The end of a store write and the edges of the inputs are all that is taken in a reset (R14, R156, R157). -/
def takenInReset : Instr → Bool
  | .storeWriteEnd _ | .detectorRise _ | .detectorFall _ => true
  | _ => false

theorem State.Holding.exec_other (held : s.Holding) (reset : s.inReset = true) {c : Instr} (notReset : resets c = false)
    (other : takenInReset c = false) : exec c s = .next s := by
  obtain ⟨-, -, -, -, -, -, inFlight, -⟩ := held.blocks
  cases parts : requestParts c with
  | some _ => exact exec_request_of_inReset reset (by rw [parts]; rfl)
  | none =>
    cases event : deadline c with
    | true => exact held.exec_deadline event
    | false =>
      cases c
      all_goals first
        | exact absurd parts (Option.some_ne_none _)
        | exact absurd event Bool.true_eq_false.mp
        | exact absurd notReset Bool.true_eq_false.mp
        | exact absurd other Bool.true_eq_false.mp
        | skip
      case frameDiscarded p w => exact exec_frameDiscarded_of_deaf (State.not_hears_of_inReset reset p) w
      case frameTimeout p => exact (held.exec_port p).1
      case answerSent p => exact (held.exec_port p).2
      case frameStart p b => exact exec_frameStart_of_inReset reset p b
      case commit => exact exec_commit_idle inFlight

end Holding

end Sys2Proof.Machine

namespace Sys2Proof.Machine

/-! ### Configuration writes, RUN and STOP -/

section Settings
variable {s t : State}

theorem State.geometryRefusal_eq_none (taken : s.geometryRefusal = none) : s.sect ≠ .running ∧ s.line = [] := by
  unfold State.geometryRefusal at taken
  split at taken
  · exact nomatch taken
  · split at taken
    · exact nomatch taken
    next stopped =>
      split at taken
      · exact nomatch taken
      next empty => exact ⟨stopped, by simpa using empty⟩

/-- A geometry write with the line order empty, outside RUNNING, and the section state settled with it (R3 to R6). -/
theorem State.Settled.geometry (settled : s.Settled) (stopped : s.sect ≠ .running) (empty : s.line = [])
    (ended : s.isoSeq = .none) (count : Option Nat) (records : Vector SpanRec 16) :
    ({ s with spanCount := count, spans := records } : State).evaluateValidity.Settled := by
  obtain ⟨quiet, issued, queue, idle, ⟨-, bars⟩, -, -⟩ := settled
  let u : State := { s with spanCount := count, spans := records }
  have sect : u.evaluateValidity.sect = if u.valid then .stopped else .unconfigured := by
    show (match s.sect, u.valid with
      | .unconfigured, true => SectionState.stopped
      | .stopped, false => .unconfigured
      | x, _ => x) = _
    cases state : s.sect <;> cases u.valid <;> first | rfl | exact absurd state stopped
  have valid : u.evaluateValidity.valid = u.valid := rfl
  refine ⟨quiet, fun _ => issued stopped, fun e mem => absurd (queue e mem).1 stopped, fun _ => idle stopped,
    ⟨?_, bars⟩, ⟨?_, rfl⟩, .of_none ended⟩
  · show ∀ e ∈ s.line, _
    rw [empty]
    exact nofun
  · rw [sect, valid]
    cases u.valid <;> simp

theorem setSpanRule_settled (settled : s.Settled) (ended : s.isoSeq = .none) (index : Byte) (length : U16)
    (resistance : Byte) (flag : Bool) : (setSpanRule index length resistance flag s).1.Settled := by
  unfold setSpanRule
  split
  · exact settled
  · split
    · exact settled
    next taken =>
      obtain ⟨stopped, empty⟩ := State.geometryRefusal_eq_none taken
      exact settled.geometry stopped empty ended s.spanCount _

theorem setSpanCountRule_settled (settled : s.Settled) (ended : s.isoSeq = .none) (count : Byte) (flag : Bool) :
    (setSpanCountRule count flag s).1.Settled := by
  unfold setSpanCountRule
  split
  · exact settled
  next taken =>
    obtain ⟨stopped, empty⟩ := State.geometryRefusal_eq_none taken
    exact settled.geometry stopped empty ended _ s.spans

theorem setParamRule_settled (settled : s.Settled) (number : Byte) (value : U16) (flag : Bool) :
    (setParamRule number value flag s).1.Settled := by
  unfold setParamRule
  split
  · exact settled
  · split
    · exact settled
    · exact settled.of_eq rfl rfl rfl settled.idle rfl rfl rfl rfl rfl rfl

theorem storeRule_settled (settled : s.Settled) (flag : Bool) : (storeRule flag s).1.Settled := by
  unfold storeRule
  split
  · exact settled
  · split
    · exact settled
    · exact settled.of_eq rfl rfl rfl settled.idle rfl rfl rfl rfl rfl rfl

theorem runRule_settled (settled : s.Settled) (flag : Bool) : (runRule flag s).1.Settled := by
  unfold runRule
  split
  next stopped =>
    obtain ⟨quiet, -, queue, -, wire, ⟨state, net⟩, sequence⟩ := settled
    have configured : s.valid ≠ false := fun invalid => nomatch stopped.symm.trans (state.2 invalid)
    exact ⟨quiet, fun other => absurd rfl other, fun e mem => ⟨rfl, (queue e mem).2⟩, fun other => absurd rfl other,
      wire, ⟨iff_of_false nofun configured, net⟩, sequence⟩
  · exact settled
  · exact settled

theorem State.Settled.stopTrucks (settled : s.Settled) (running : s.sect = .running) : s.stopped.stopTrucks.Settled := by
  obtain ⟨quiet, -, -, -, wire, ⟨state, net⟩, sequence⟩ := settled
  obtain ⟨records, frame⟩ := s.stopped.stopTrucks_spec
  have none (k : Slot) : (s.stopped.stopTrucks.truck k).issued = 0 := by
    have unissued (idle : (s.truck k).state.issuing ≠ true) : (s.truck k).issued = 0 :=
      Decidable.of_not_not fun issued => idle (quiet k issued)
    have same : s.stopped.truck k = s.truck k := rfl
    rw [records k]
    cases at' : (s.truck k).state <;>
      simp only [State.stopTruck, State.lowerOrder, State.expel_eq, same, at', State.truck_setTruck_same]
    case queued => rfl
    all_goals exact unissued (by rw [at']; exact nofun)
  generalize s.stopped.stopTrucks = t at frame none
  have sect : t.sect = .stopped := by rw [frame]; rfl
  have configured : s.valid ≠ false := fun invalid => nomatch running.symm.trans (state.2 invalid)
  refine ⟨fun k issued => absurd (none k) issued, fun _ => none, ?_, fun _ => ?_, ?_, ?_, ?_⟩
  · rw [State.QueueInSection, frame]
    exact nofun
  · rw [frame]
    exact ⟨rfl, rfl⟩
  · rw [frame]
    exact wire
  · rw [frame]
    exact ⟨iff_of_false nofun configured, net⟩
  · rw [frame]
    exact sequence

theorem stopRule_settled (settled : s.Settled) (flag : Bool) : (stopRule flag s).1.Settled := by
  rw [stopRule_state]
  split
  next running => exact settled.stopTrucks running
  next => exact settled

/-! ### The cycle and the commit -/

theorem exec_cycleDeadline_settled (next : exec .cycleDeadline s = .next t) (spans : s.HasSpans) (settled : s.Settled) :
    t.Settled := by
  obtain rfl := Host.Outcome.next.inj next
  have marked := s.markSnapshot_follows.settled spans settled
  have sect : s.markSnapshot.sect = s.sect := State.sect_of_setup s.markSnapshot_follows.setup
  generalize s.markSnapshot = u at marked sect
  split
  next passed =>
    have running : u.sect = .running := sect.trans passed.2
    exact marked.of_eq rfl rfl rfl (fun stopped => absurd running stopped) rfl rfl rfl rfl rfl rfl
  next => exact settled

theorem State.resultsOf_settled (settled : s.Settled) (running : s.sect = .running) (x : Snapshot) :
    (s.resultsOf x).Settled ∧ (s.resultsOf x).sect = .running := by
  obtain ⟨records, frame⟩ := s.resultsOf_takes x
  obtain ⟨quiet, -, queue, -, wire, config, sequence⟩ := settled
  generalize s.resultsOf x = u at records frame
  have sect : u.sect = .running := by
    rw [frame]
    exact running
  refine ⟨⟨fun k => (records k).quiet (quiet k), fun stopped => absurd sect stopped, ?_,
    fun stopped => absurd sect stopped, ?_, ?_, ?_⟩, sect⟩ <;> rw [frame]
  · exact queue
  · exact wire
  · exact config
  · exact sequence

/-- A grant puts the queue's head on its span, which is one of the section (R102, R111). -/
theorem State.Settled.applyGrant (settled : s.Settled) (spans : s.HasSpans) (running : s.sect = .running) {k : Slot}
    {fleet : Option U16} {span : Nat} (applies : s.grantApplies k fleet span = true) (amount : Nat) :
    (s.applyGrant k span amount).Settled := by
  have inside : s.inSection span = true := by
    simp only [State.grantApplies, Bool.and_eq_true, beq_iff_eq] at applies
    obtain ⟨⟨⟨-, head⟩, -⟩, -⟩ := applies
    cases queue : s.queue with
    | nil =>
      rw [queue] at head
      exact nomatch head
    | cons e rest =>
      simp only [queue, Bool.and_eq_true, beq_iff_eq] at head
      rw [← head.2]
      exact (settled.queue e (by rw [queue]; exact List.mem_cons_self)).2
  let u : State := { s with queue := s.queue.tail, spacing := some (after s.now s.params.raiseSpacing) }
  have left : s.Follows u :=
    State.follows_of_records rfl (fun _ => .refl _) (fun e mem => ⟨e, List.mem_of_mem_tail mem, rfl⟩) rfl rfl (.inl rfl)
      fun _ => rfl
  have placed : u.Follows (u.putLine (insertEntry (s.track { kind := .truck k, span := span } 500 s.now) s.line)) := by
    refine State.follows_putLine (fun _ old e mem => ?_) (fun e mem => ⟨e, mem_insertEntry.2 (.inr mem), rfl⟩)
      fun held e mem => ?_
    · rcases mem_insertEntry.1 mem with rfl | mem
      · exact inside
      · exact old e mem
    · rcases mem_insertEntry.1 mem with rfl | mem
      · exact Nat.zero_le _
      · exact held.2.2 e mem
  obtain ⟨quiet, -, queue, -, wire, config, sequence⟩ := (left.trans placed).settled spans settled
  refine ⟨fun j => ?_, fun stopped => absurd running stopped, queue, fun stopped => absurd running stopped, wire, config,
    sequence⟩
  rw [State.applyGrant, State.truck_setTruck]
  split
  · exact fun _ => rfl
  · exact quiet j

theorem State.commitOf_settled (settled : s.Settled) (spans : s.HasSpans) (running : s.sect = .running) (x : Snapshot) :
    (s.commitOf x).Settled := by
  have handed (u : State) (table : GrantTable) (a b : Nat) (settled : u.Settled) :
      (({ u with grants := table } : State).takeShares a b).Settled :=
    settled.of_eq rfl rfl rfl settled.idle rfl rfl rfl rfl rfl rfl
  obtain ⟨results, still⟩ := State.resultsOf_settled settled running x
  have has : (s.resultsOf x).HasSpans := by
    have frame := (s.resultsOf_takes x).2
    generalize s.resultsOf x = u at frame
    rw [frame]
    exact spans
  rw [State.commitOf_eq]
  rcases s.afterGrant_cases x with ⟨h, a, -, applies, -, eq⟩ | ⟨-, eq⟩ <;> rw [eq]
  · exact handed _ _ _ _ (results.applyGrant has still applies a)
  · exact handed _ _ _ _ results

theorem exec_commit_settled (next : exec .commit s = .next t) (spans : s.HasSpans) (settled : s.Settled) : t.Settled := by
  obtain rfl := Host.Outcome.next.inj next
  split
  · exact settled
  next x _ =>
    split
    next running => exact State.commitOf_settled settled spans running x
    next => exact settled.of_eq rfl rfl rfl (fun stopped => ⟨rfl, (settled.idle stopped).2⟩) rfl rfl rfl rfl rfl rfl

end Settings

end Sys2Proof.Machine

namespace Sys2Proof.Machine

/-! ### Resets -/

/-- The table, the places, the computation and the sequence as a reset leaves them (R157). -/
structure State.AtRest (s : State) : Prop where
  trucks : s.trucks = Vector.replicate 12 {}
  line : s.line = []
  queue : s.queue = []
  inFlight : s.inFlight = none
  cycle : s.cycle = none
  sequence : s.isoSeq = .none

section Resets
variable {s t : State}

theorem State.Holding.atRest (held : s.Holding) : s.AtRest := by
  obtain ⟨trucks, line, queue, -, -, cycle, inFlight, isoSeq, -⟩ := held.blocks
  exact ⟨trucks, line, queue, inFlight, cycle, isoSeq⟩

theorem State.clearDynamic_atRest (s : State) : s.clearDynamic.AtRest := ⟨rfl, rfl, rfl, rfl, rfl, rfl⟩

/-- A part at rest, no bar pending and its section state by validity. -/
theorem State.AtRest.settled (rest : s.AtRest) (bars : ∀ i, s.spanState i ≠ .pendingBar)
    (sect : s.sect = if s.valid then .stopped else .unconfigured) (derived : s.derived = s.computeNet) : s.Settled := by
  obtain ⟨trucks, line, queue, inFlight, cycle, sequence⟩ := rest
  have none (k : Slot) : (s.truck k).issued = 0 := by
    rw [State.truck_def, trucks]
    exact congrArg Truck.issued (Vector.getElem_replicate _)
  refine ⟨fun k issued => absurd (none k) issued, fun _ => none, by rw [State.QueueInSection, queue]; exact nofun,
    fun _ => ⟨inFlight, cycle⟩, ⟨by rw [line]; exact nofun, fun i pending => absurd pending (bars i)⟩, ⟨?_, derived⟩,
    .of_none sequence⟩
  rw [sect]
  cases s.valid <;> simp

/-- The configuration once section control has settled on it (R15, R16, R148). -/
theorem State.settleSection_settles (s : State) :
    s.settleSection.sect = (if s.settleSection.valid then .stopped else .unconfigured) ∧
      s.settleSection.derived = s.settleSection.computeNet := ⟨rfl, rfl⟩

theorem State.inputsRise_settled (settled : s.Settled) : s.inputsRise.Settled := by
  have frame := s.inputsRise_spec.2
  generalize s.inputsRise = t at frame
  rw [frame]
  exact settled.of_eq rfl rfl rfl settled.idle rfl rfl rfl rfl rfl rfl

/-- The resets in progress, which neither a channel nor a span state enters. -/
theorem State.inputsRise_resets (s : State) :
    s.inputsRise.coldReset = s.coldReset ∧ s.inputsRise.warmHold = s.warmHold := by
  have frame := s.inputsRise_spec.2
  generalize s.inputsRise = t at frame
  rw [frame]
  exact ⟨rfl, rfl⟩

theorem State.loadStored_keeps (s : State) : (s.AtRest → s.loadStored.AtRest) ∧ s.loadStored.warmHold = s.warmHold := by
  unfold State.loadStored
  split <;> exact ⟨fun ⟨trucks, line, queue, inFlight, cycle, sequence⟩ =>
    ⟨trucks, line, queue, inFlight, cycle, sequence⟩, rfl⟩

theorem State.endCold_settled (rest : s.AtRest) :
    s.endCold.Settled ∧ s.endCold.coldReset = false ∧ s.endCold.warmHold = s.warmHold := by
  obtain ⟨loaded, warm⟩ := s.loadStored_keeps
  obtain ⟨trucks, line, queue, inFlight, cycle, sequence⟩ := loaded rest
  unfold State.endCold
  generalize s.loadStored = u at *
  let v : State := { u with coldReset := false, store := .idle, spanStates := Vector.replicate 16 .opened }
  have bars (i : Nat) : v.settleSection.spanState i ≠ .pendingBar := by
    by_cases small : i < 16
    · show ((Vector.replicate 16 SpanState.opened)[i]?).getD .opened ≠ .pendingBar
      rw [Vector.getElem?_eq_getElem small, Vector.getElem_replicate]
      exact nofun
    · rw [State.spanState_beyond _ (Nat.le_of_not_lt small)]
      exact nofun
  have settled : v.settleSection.Settled := State.AtRest.settled ⟨trucks, line, queue, inFlight, cycle, sequence⟩ bars
    v.settleSection_settles.1 v.settleSection_settles.2
  exact ⟨State.inputsRise_settled settled, v.settleSection.inputsRise_resets.1,
    v.settleSection.inputsRise_resets.2.trans warm⟩

theorem State.endWarm_settled (rest : s.AtRest) :
    s.endWarm.Settled ∧ s.endWarm.coldReset = s.coldReset ∧ s.endWarm.warmHold = false := by
  obtain ⟨trucks, line, queue, inFlight, cycle, sequence⟩ := rest
  unfold State.endWarm
  let v : State := { s with warmHold := false }
  obtain ⟨states, frame⟩ := v.settleSection.settleBars_spec
  have kept : v.settleSection.settleBars.coldReset = s.coldReset ∧ v.settleSection.settleBars.warmHold = false := by
    rw [frame]
    exact ⟨rfl, rfl⟩
  have settled : v.settleSection.settleBars.Settled := by
    obtain ⟨sect, derived⟩ := v.settleSection_settles
    have blocks : v.settleSection.AtRest := ⟨trucks, line, queue, inFlight, cycle, sequence⟩
    generalize v.settleSection = w at states frame sect derived blocks
    generalize w.settleBars = t at states frame
    have bars (i : Nat) : t.spanState i ≠ .pendingBar := by
      by_cases small : i < 16
      · rw [states i small]
        split
        · exact nofun
        · assumption
      · rw [t.spanState_beyond (Nat.le_of_not_lt small)]
        exact nofun
    refine State.AtRest.settled ?_ bars ?_ ?_ <;> rw [frame]
    · exact ⟨blocks.trucks, blocks.line, blocks.queue, blocks.inFlight, blocks.cycle, blocks.sequence⟩
    · exact sect
    · exact derived
  exact ⟨State.inputsRise_settled settled, (State.inputsRise_resets _).1.trans kept.1,
    (State.inputsRise_resets _).2.trans kept.2⟩

theorem State.Settled.sectionHolds (settled : s.Settled) (cold : s.coldReset = false) (warm : s.warmHold = false) :
    s.SectionHolds := (State.sectionHolds_iff (by rw [State.inReset, cold, warm]; rfl)).2 settled

/-- The blocks cleared and WARM_RST_N held (R157). -/
theorem State.clearDynamic_held (s : State) (pin : Bool) :
    ({ s.clearDynamic with warmPin := pin, warmHold := true } : State).Holding := rfl

theorem State.warmHold_section (cold : s.coldReset = false)
    (config : (s.sect = .unconfigured ↔ s.valid = false) ∧ s.derived = s.computeNet) (pin : Bool) :
    ({ s.clearDynamic with warmPin := pin, warmHold := true } : State).SectionHolds := by
  refine State.sectionHolds_of_holding (s.clearDynamic_held pin) (Bool.or_true _) ?_ fun _ => config
  rintro ⟨inCold, -⟩
  exact absurd (cold.symm.trans inCold) Bool.false_ne_true

theorem State.SectionHolds.config (holds : s.SectionHolds) : s.ConfigSettled := by
  obtain ⟨-, -, -, -, config, -⟩ := holds
  exact config

theorem State.SectionHolds.holding (holds : s.SectionHolds) (reset : s.inReset = true) : s.Holding := holds.1.1 reset

theorem State.SectionHolds.not_both (holds : s.SectionHolds) : ¬(s.coldReset = true ∧ s.warmHold = true) := holds.1.2

theorem State.Holding.warmPin (held : s.Holding) (pin : Bool) : ({ s with warmPin := pin } : State).Holding :=
  congrArg (fun u : State => ({ u with warmPin := pin } : State)) held

/-- WARM_RST_N's level enters nothing that is promised. -/
theorem State.SectionHolds.warmPin (holds : s.SectionHolds) (pin : Bool) :
    ({ s with warmPin := pin } : State).SectionHolds := by
  cases reset : s.inReset with
  | true =>
    exact State.sectionHolds_of_holding ((holds.holding reset).warmPin pin) reset holds.not_both holds.config
  | false =>
    have settled := (State.sectionHolds_iff reset).1 holds
    exact (State.sectionHolds_iff (s := { s with warmPin := pin }) reset).2
      (settled.of_eq rfl rfl rfl settled.idle rfl rfl rfl rfl rfl rfl)

theorem exec_coldResetEnd_section (next : exec .coldResetEnd s = .next t) (holds : s.SectionHolds) : t.SectionHolds := by
  obtain rfl := Host.Outcome.next.inj next
  split
  next cold =>
    have reset : s.inReset = true := by rw [State.inReset, cold]; rfl
    have warm : s.warmHold = false := Bool.eq_false_iff.2 fun warm => holds.not_both ⟨cold, warm⟩
    obtain ⟨settled, ended, same⟩ := State.endCold_settled (holds.holding reset).atRest
    generalize s.endCold = u at settled ended same
    split
    · exact State.warmHold_section ended settled.config u.warmPin
    · exact settled.sectionHolds ended (same.trans warm)
  next => exact holds

theorem exec_warmRstNAssert_section (next : exec .warmRstNAssert s = .next t) (holds : s.SectionHolds) :
    t.SectionHolds := by
  obtain rfl := Host.Outcome.next.inj next
  split
  · exact holds.warmPin true
  next notCold =>
    split
    · exact holds
    · have cold := Bool.eq_false_iff.2 notCold
      exact State.warmHold_section cold (holds.config cold) true

theorem exec_warmResetEnd_section (next : exec .warmResetEnd s = .next t) (holds : s.SectionHolds) : t.SectionHolds := by
  obtain rfl := Host.Outcome.next.inj next
  split
  next warm =>
    have reset : s.inReset = true := by rw [State.inReset, warm, Bool.or_true]
    have cold : s.coldReset = false := Bool.eq_false_iff.2 fun cold => holds.not_both ⟨cold, warm⟩
    obtain ⟨settled, same, ended⟩ := State.endWarm_settled ((holds.holding reset).warmPin false).atRest
    exact settled.sectionHolds (same.trans cold) ended
  next => exact holds.warmPin false

theorem exec_warmResetAfterAck_section (next : exec .warmResetAfterAck s = .next t) (holds : s.SectionHolds) :
    t.SectionHolds := by
  obtain rfl := Host.Outcome.next.inj next
  split
  next asked =>
    have awake : s.inReset = false := by
      refine Bool.eq_false_iff.2 fun reset => ?_
      obtain ⟨-, -, -, -, -, -, -, -, unasked, -⟩ := (holds.holding reset).blocks
      exact absurd (unasked.symm.trans asked) Bool.false_ne_true
    obtain ⟨settled, same, ended⟩ := State.endWarm_settled s.clearDynamic_atRest
    exact settled.sectionHolds (same.trans (State.resets_of_inReset awake).1) ended
  next => exact holds

theorem exec_resets_section {c : Instr} (reset : resets c = true) (next : exec c s = .next t) (holds : s.SectionHolds) :
    t.SectionHolds := by
  cases c
  all_goals first | exact absurd reset Bool.false_ne_true | skip
  case coldReset =>
    obtain rfl := Host.Outcome.next.inj next
    refine State.sectionHolds_of_holding rfl (Bool.true_or _) nofun fun awake => ?_
    exact absurd awake Bool.true_eq_false.mp
  case coldResetEnd => exact exec_coldResetEnd_section next holds
  case warmRstNAssert => exact exec_warmRstNAssert_section next holds
  case warmResetEnd => exact exec_warmResetEnd_section next holds
  case warmResetAfterAck => exact exec_warmResetAfterAck_section next holds

/-! ### The settings, outside a reset and in one -/

theorem State.Settled.abandoned (settled : s.Settled) : ({ s with isoSeq := .none } : State).Settled := by
  obtain ⟨quiet, issued, queue, idle, wire, config, -⟩ := settled
  exact ⟨quiet, issued, queue, idle, wire, config, .of_none rfl⟩

/-- A dispatch request that abandons a sequence, outside a reset. -/
theorem State.Settled.request_abandoning (settled : s.Settled) (spans : s.HasSpans)
    {rule : Bool → State → State × Answer}
    (rules : ∀ u : State, u.Settled → u.isoSeq = .none → (rule s.isoBusy u).1.Settled) :
    (s.request .dispatch fun s => s.abandoning rule).Settled := by
  obtain ⟨u, x, before, counts, eq⟩ := s.request_abandoning_cases rule
  have ruled : u.Settled := by
    rcases before with rfl | ⟨rfl, -⟩
    · exact settled
    · exact rules _ settled.abandoned rfl
  rw [eq]
  refine ruled.of_eq (u.setPort_sect .dispatch x) rfl rfl ruled.idle rfl rfl rfl rfl rfl rfl

/-- The settings keep what is promised outside a reset. -/
theorem exec_settles_settled {c : Instr} (setting : settles c = true) (next : exec c s = .next t) (settled : s.Settled)
    (spans : s.HasSpans) : t.Settled := by
  have same {u : State} (sect : u.sect = s.sect) (trucks : u.trucks = s.trucks) (queue : u.queue = s.queue)
      (idle : u.sect ≠ .running → u.inFlight = none ∧ u.cycle = none) (line : u.line = s.line)
      (states : u.spanStates = s.spanStates) (count : u.spanCount = s.spanCount) (records : u.spans = s.spans)
      (derived : u.derived = s.derived) (sequence : u.isoSeq = s.isoSeq) : u.Settled :=
    settled.of_eq sect trucks queue idle line states count records derived sequence
  cases c
  all_goals first | exact absurd setting Bool.false_ne_true | obtain rfl := Host.Outcome.next.inj next
  case setSpan i l r => exact settled.request_abandoning spans fun u held ended => setSpanRule_settled held ended i l r _
  case setSpanCount n => exact settled.request_abandoning spans fun u held ended => setSpanCountRule_settled held ended n _
  case setParam n v => exact settled.request_abandoning spans fun u held _ => setParamRule_settled held n v _
  case store => exact settled.request_abandoning spans fun u held _ => storeRule_settled held _
  case run => exact settled.request_abandoning spans fun u held _ => runRule_settled held _
  case storeWriteEnd agrees =>
    split
    · exact settled
    · split <;> exact same rfl rfl rfl settled.idle rfl rfl rfl rfl rfl rfl
  case detectorRise j =>
    dsimp only
    split <;> exact same rfl rfl rfl settled.idle rfl rfl rfl rfl rfl rfl
  case detectorFall j =>
    dsimp only
    split <;> exact same rfl rfl rfl settled.idle rfl rfl rfl rfl rfl rfl

end Resets

end Sys2Proof.Machine

namespace Sys2Proof.Machine

section StepSection
variable {s t : State}

/-! ### No reset begins or ends but by its own command -/

theorem State.inReset_onPorts (b : Bool) : KeptOnPorts fun u => u.inReset = b := fun s p x _ =>
  (State.inReset_of_setup (s.setup_setPort p x)).trans

theorem exec_settles_inReset {c : Instr} (setting : settles c = true) (next : exec c s = .next t) :
    t.inReset = s.inReset := by
  have request {rule : Bool → State → State × Answer} (rules : ∀ u : State, (rule s.isoBusy u).1.inReset = u.inReset) :
      (s.request .dispatch fun s => s.abandoning rule).inReset = s.inReset :=
    (State.inReset_onPorts _).request (rule := fun s => s.abandoning rule) (fun _ => rules _) _ rfl
  cases c
  all_goals first | exact absurd setting Bool.false_ne_true | obtain rfl := Host.Outcome.next.inj next
  case setSpan i l r =>
    refine request fun u => ?_
    unfold setSpanRule
    split
    · rfl
    · split <;> rfl
  case setSpanCount n =>
    refine request fun u => ?_
    unfold setSpanCountRule
    split <;> rfl
  case setParam n v =>
    refine request fun u => ?_
    unfold setParamRule
    split
    · rfl
    · split <;> rfl
  case store =>
    refine request fun u => ?_
    unfold storeRule
    split
    · rfl
    · split <;> rfl
  case run =>
    refine request fun u => ?_
    unfold runRule
    split <;> rfl
  case storeWriteEnd agrees =>
    split
    · rfl
    · split <;> rfl
  case detectorRise j =>
    dsimp only
    split <;> rfl
  case detectorFall j =>
    dsimp only
    split <;> rfl

theorem exec_stop_inReset (next : exec .stop s = .next t) : t.inReset = s.inReset := by
  obtain rfl := Host.Outcome.next.inj next
  refine (State.inReset_onPorts _).request (rule := fun s => s.abandoning stopRule) (fun _ => ?_) _ rfl
  show (stopRule _ _).1.inReset = _
  rw [stopRule_state]
  split
  · exact State.inReset_of_setup (s := State.stopped _) (State.stopTrucks_follows _).setup
  · rfl

theorem exec_cycleDeadline_inReset (next : exec .cycleDeadline s = .next t) : t.inReset = s.inReset := by
  obtain rfl := Host.Outcome.next.inj next
  have setup := s.markSnapshot_follows.setup
  split
  · generalize s.markSnapshot = u at setup
    exact State.inReset_of_setup (t := u) setup
  · rfl

theorem State.commitOf_inReset (s : State) (x : Snapshot) : (s.commitOf x).inReset = s.inReset := by
  have frame := (s.resultsOf_takes x).2
  rw [State.commitOf_eq]
  rcases s.afterGrant_cases x with ⟨h, a, -, -, -, eq⟩ | ⟨-, eq⟩ <;> rw [eq] <;>
    generalize s.resultsOf x = u at frame <;> rw [frame] <;> rfl

theorem exec_commit_inReset (next : exec .commit s = .next t) : t.inReset = s.inReset := by
  obtain rfl := Host.Outcome.next.inj next
  split
  · rfl
  next x _ =>
    split
    · exact s.commitOf_inReset x
    · rfl

/-! ### The promises of the section after every command -/

/-- Outside a reset, a command that is neither a reset nor a byte received. -/
theorem exec_section_awake {c : Instr} (awake : s.inReset = false) (notReset : resets c = false)
    (other : onReceiver c = false) (next : exec c s = .next t) (spans : s.HasSpans) (settled : s.Settled) :
    t.SectionHolds := by
  have holds (same : t.inReset = s.inReset) : t.Settled → t.SectionHolds :=
    (State.sectionHolds_iff (same.trans awake)).2
  rcases command_cases c with kept | setting | reset | rfl | rfl | rfl | ⟨p, b, rfl⟩
  · have follows := exec_follows kept next
    exact holds (State.inReset_of_setup follows.setup) (follows.settled spans settled)
  · exact holds (exec_settles_inReset setting next) (exec_settles_settled setting next settled spans)
  · exact absurd (notReset.symm.trans reset) Bool.false_ne_true
  · refine holds (exec_stop_inReset next) ?_
    obtain rfl := Host.Outcome.next.inj next
    exact settled.request_abandoning spans fun u held _ => stopRule_settled held _
  · exact holds (exec_cycleDeadline_inReset next) (exec_cycleDeadline_settled next spans settled)
  · exact holds (exec_commit_inReset next) (exec_commit_settled next spans settled)
  · exact absurd other Bool.true_eq_false.mp

theorem exec_frameStart_section {p : Port} {b : RxByte} (awake : s.inReset = false)
    (next : exec (.frameStart p b) s = .next t) (spans : s.HasSpans) (holds : s.SectionHolds) : t.SectionHolds := by
  obtain ⟨u, eq, received⟩ := exec_frameStart_received s p b
  obtain rfl := Host.Outcome.next.inj (next.symm.trans eq)
  cases received with
  | port x counts => exact (State.follows_setPort counts).sectionHolds awake spans holds
  | request i k payload x parts counts =>
    have request : (requestParts i).isSome = true := by rw [parts]; rfl
    have other : onReceiver i = false ∧ resets i = false := by
      cases i <;> first | exact ⟨rfl, rfl⟩ | exact absurd request Bool.false_ne_true
    have follows := State.follows_setPort (s := s) counts
    have range : (s.setPort p x).HasSpans := by rwa [State.HasSpans, State.n_of_setup follows.setup]
    have still := (State.inReset_of_setup follows.setup).trans awake
    exact exec_section_awake still other.2 other.1 (exec_of_takeRequest _ request) range
      (follows.settled spans ((State.sectionHolds_iff awake).1 holds))

/-- In a reset the end of a store write and the levels of the inputs change nothing that is promised (R156, R157). -/
theorem State.Holding.exec_taken (held : s.Holding) (reset : s.inReset = true) (holds : s.SectionHolds) {c : Instr}
    (taken : takenInReset c = true) (next : exec c s = .next t) : t.SectionHolds := by
  cases c
  all_goals first | exact absurd taken Bool.false_ne_true | obtain rfl := Host.Outcome.next.inj next
  case storeWriteEnd agrees =>
    split
    · exact holds
    · split
      · have held : ({ s with stored := s.workingCopy, store := .idle, events := { s.events with storeDone := true } } :
            State).Holding :=
          congrArg (fun u : State => ({ u with
            stored := s.workingCopy, store := .idle, events := { u.events with storeDone := true } } : State)) held
        exact State.sectionHolds_of_holding held reset holds.not_both holds.config
      · have held : ({ s with stored := s.stored.marked, store := .idle, events := { s.events with storeFailed := true } } : State).Holding :=
          congrArg (fun u : State => ({ u with
            stored := s.stored.marked, store := .idle, events := { u.events with storeFailed := true } } : State)) held
        exact State.sectionHolds_of_holding held reset holds.not_both holds.config
  case detectorRise j =>
    have held (d) : ({ s with det := d } : State).Holding :=
      congrArg (fun u : State => ({ u with det := d } : State)) held
    dsimp only
    rw [if_pos reset]
    exact State.sectionHolds_of_holding (held _) reset holds.not_both holds.config
  case detectorFall j =>
    have held (d) : ({ s with det := d } : State).Holding :=
      congrArg (fun u : State => ({ u with det := d } : State)) held
    dsimp only
    rw [if_pos (.inl reset)]
    exact State.sectionHolds_of_holding (held _) reset holds.not_both holds.config

theorem exec_section {c : Instr} (next : exec c s = .next t) (range : s.ConfigInRange) (holds : s.SectionHolds) :
    t.SectionHolds := by
  have spans := range.hasSpans
  by_cases reset : resets c = true
  · exact exec_resets_section reset next holds
  have notReset := Bool.eq_false_iff.2 reset
  cases within : s.inReset with
  | true =>
    have held := holds.holding within
    by_cases taken : takenInReset c = true
    · exact held.exec_taken within holds taken next
    · obtain rfl := Host.Outcome.next.inj (next.symm.trans (held.exec_other within notReset (Bool.eq_false_iff.2 taken)))
      exact holds
  | false =>
    by_cases receiver : onReceiver c = true
    · by_cases writes : writesSetup c = true
      · cases c
        all_goals first | exact absurd receiver Bool.false_ne_true | exact absurd writes Bool.false_ne_true | skip
        exact exec_frameStart_section within next spans holds
      · exact (exec_follows (Bool.eq_false_iff.2 writes) next).sectionHolds within spans holds
    · exact exec_section_awake within notReset (Bool.eq_false_iff.2 receiver) next spans
        ((State.sectionHolds_iff within).1 holds)

/-- The queue of commands and the time base enter nothing that is promised. -/
theorem State.SectionHolds.clock (holds : s.SectionHolds) (pending : List Instr) (choice : Nat) (now : Time) :
    ({ s with pending := pending, choice := choice, now := now } : State).SectionHolds := by
  cases reset : s.inReset with
  | true =>
    have held : ({ s with pending := pending, choice := choice, now := now } : State).Holding :=
      congrArg (fun u : State => ({ u with pending := pending, choice := choice, now := now } : State))
        (holds.holding reset)
    exact State.sectionHolds_of_holding held reset holds.not_both holds.config
  | false =>
    have settled := (State.sectionHolds_iff reset).1 holds
    exact (State.sectionHolds_iff (s := { s with pending := pending, choice := choice, now := now }) reset).2
      (settled.of_eq rfl rfl rfl settled.idle rfl rfl rfl rfl rfl rfl)

end StepSection

/-- Settles O58: outside a reset each block's promise is kept by every command; in a reset every block holds its reset
values and only the store and the input levels are written. -/
theorem stepKeepsSection : Obligations.StepKeepsSection := by
  intro s t holds range next
  rcases step_cases next with ⟨c, rest, -, taken⟩ | ⟨pending, choice, now, rfl⟩
  · exact exec_section taken (range.of_eq (t := { s with pending := rest }) rfl rfl rfl rfl rfl rfl)
      (holds.clock rest s.choice s.now)
  · exact holds.clock pending choice now

end Sys2Proof.Machine

namespace Sys2Proof.Machine

/-! ### Frames from trucks: the answers to rules of the truck port -/

section TruckPort
variable {s : State} {k : Slot} {slot : Byte} {f : U16}

theorem State.request_truck_of_rule {rule : State → State × Answer} {u : State} {a : Answer}
    (hears : s.hears .truck = true) (eq : rule s = (u, a)) :
    (.next (s.request .truck rule) : Host.Outcome State Fault Refusal) = .next (u.send .truck a) := by
  rw [State.request_of_hears rule hears, eq]

/-- The answer LIMIT is built from the record written, its pending refusal then cleared (R77). -/
theorem State.limit_setTruck (s : State) (k : Slot) (r : Truck) :
    (s.setTruck k r).limit k = (s.setTruck k { r with refusal := none }, (s.setTruck k r).limitAnswer k) := by
  rw [State.limit, State.truck_setTruck_same, State.setTruck_setTruck]

/-- The record of a truck from which a frame is taken (R60, R72). -/
theorem State.takenFrom_setSilence (s : State) (k : Slot) :
    (s.takenFrom k).setSilence k = s.setTruck k { s.truck k with
      lastFrame := some s.now
      idle := if (s.truck k).state = .standby then some (after s.now (s.params.standbyIdle * 1000)) else (s.truck k).idle
      silence := if (s.truck k).state ∈ [.raisePending, .drawing, .lowering] then
          some (after s.now s.params.silence)
        else (s.truck k).silence } := by
  unfold State.setSilence State.takenFrom
  cases state : (s.truck k).state <;> simp [state]

/-- A truck whose silence is watched. -/
theorem State.takenFrom_setSilence_watched (s : State) (k : Slot)
    (watched : (s.truck k).state = .raisePending ∨ (s.truck k).state = .drawing ∨ (s.truck k).state = .lowering) :
    (s.takenFrom k).setSilence k = s.setTruck k { s.truck k with
      lastFrame := some s.now, silence := some (after s.now s.params.silence) } := by
  rw [State.takenFrom_setSilence]
  rcases watched with state | state | state <;> simp [state]

theorem State.takenFrom_setSilence_silent (s : State) (k : Slot) (silent : (s.truck k).state = .silent) :
    (s.takenFrom k).setSilence k = s.setTruck k { s.truck k with lastFrame := some s.now } := by
  rw [State.takenFrom_setSilence]
  simp [silent]

/-! ### JOIN and the frames of trucks that are not enrolled -/

theorem joinRule_held (nonzero : f ≠ 0) (held : s.Holds k f) (first : ∀ j < k, ¬s.Holds j f) :
    joinRule f s = ((s.takenFrom k).setSilence k, .slot (k.val + 1) none) := by
  have slot : s.slotOfFleet f = some k := by
    refine find_allSlots (by simp [held.1, held.2]) fun j below => ?_
    have other := first j below
    rw [State.Holds] at other
    simpa using other
  rw [joinRule, if_neg nonzero, slot]

theorem State.slotOfFleet_eq_none (unheld : ∀ j, ¬s.Holds j f) : s.slotOfFleet f = none :=
  find_allSlots_none fun j => by simpa [State.Holds] using unheld j

theorem joinRule_room (nonzero : f ≠ 0) (unheld : ∀ j, ¬s.Holds j f) (free : (s.truck k).state = .free)
    (lowest : ∀ j < k, (s.truck j).state ≠ .free) :
    joinRule f s = (s.setTruck k { fleet := some f, state := .standby, lastFrame := some s.now
                                   idle := some (after s.now (s.params.standbyIdle * 1000)) },
      .slot (k.val + 1) none) := by
  have room : s.lowestFreeSlot = some k := find_allSlots (by simp [free]) fun j below => by simp [lowest j below]
  rw [joinRule, if_neg nonzero, State.slotOfFleet_eq_none unheld, room]
  simp [State.enterStandby, Truck.standby]

theorem joinRule_full (nonzero : f ≠ 0) (unheld : ∀ j, ¬s.Holds j f) (full : ∀ k, (s.truck k).state ≠ .free) :
    joinRule f s = (s, .slot 0 (some .tableFull)) := by
  have none : s.lowestFreeSlot = none := find_allSlots_none fun j => by simp [full j]
  rw [joinRule, if_neg nonzero, State.slotOfFleet_eq_none unheld, none]

/-- Settles O5: each of the four cases of R61 is a branch of the rule, taken on the first slot that is found. -/
theorem joinTakesFirstCase : Obligations.JoinTakesFirstCase := by
  intro s f hears
  refine ⟨fun zero => ?_, fun nonzero k held first => ?_, fun nonzero unheld k free lowest => ?_,
    fun nonzero unheld full => ?_⟩
  · exact State.request_truck_of_rule hears (if_pos zero)
  · rw [← State.takenFrom_setSilence]
    exact State.request_truck_of_rule hears (joinRule_held nonzero held first)
  · exact State.request_truck_of_rule hears (joinRule_room nonzero unheld free lowest)
  · exact State.request_truck_of_rule hears (joinRule_full nonzero unheld full)

/-- Settles O6: the check of R60 fails, and every rule answers before it touches the state. -/
theorem unenrolledFrameRefused : Obligations.UnenrolledFrameRefused := by
  intro s slot f hears unheld
  have unenrolled := State.enrolled_eq_none unheld
  refine ⟨fun p i m w => ?_, fun x r i => ?_, ?_, ?_⟩
  · exact State.request_truck_of_rule hears (by rw [statusRule, unenrolled])
  · exact State.request_truck_of_rule hears (by rw [raiseRule, unenrolled])
  · exact State.request_truck_of_rule hears (by rw [cancelRule, unenrolled])
  · exact State.request_truck_of_rule hears (by rw [leaveRule, unenrolled])

/-! ### CANCEL and LEAVE -/

/-- Taking the frame writes the slot's record alone. -/
theorem State.takenFrom_eq (s : State) (k : Slot) :
    s.takenFrom k = s.setTruck k { s.truck k with
      lastFrame := some s.now
      idle := if (s.truck k).state = .standby then some (after s.now (s.params.standbyIdle * 1000))
        else (s.truck k).idle } := rfl

@[simp] theorem State.freeSlot_setTruck (s : State) (k : Slot) (r : Truck) : (s.setTruck k r).freeSlot k = s.freeSlot k := by
  simp [State.freeSlot]

theorem State.unqueue_setTruck (s : State) (k j : Slot) (r : Truck) :
    (s.setTruck j r).unqueue k = (s.unqueue k).setTruck j r := rfl

theorem State.enterStandby_setTruck (s : State) (k : Slot) (r : Truck) (holdoff : Option Time) :
    (s.setTruck k r).enterStandby k holdoff =
      s.setTruck k (r.standby (after s.now (s.params.standbyIdle * 1000)) holdoff) := by
  simp [State.enterStandby_eq]

@[simp] theorem State.removeEntries_params (s : State) (q : Entry → Bool) : (s.removeEntries q).params = s.params := by
  rw [State.removeEntries_frame]

theorem leaveRule_standby (enrolled : s.enrolled slot f = some k) (state : (s.truck k).state = .standby) :
    leaveRule slot f s = (s.freeSlot k, .ack .leave false [byte (k.val + 1)]) := by
  simp [leaveRule, enrolled, state, State.takenFrom_eq]

theorem leaveRule_queued (enrolled : s.enrolled slot f = some k) (state : (s.truck k).state = .queued) :
    leaveRule slot f s = ((s.unqueue k).freeSlot k, .ack .leave false [byte (k.val + 1)]) := by
  simp [leaveRule, enrolled, state, State.takenFrom_eq, State.unqueue_setTruck]

theorem leaveRule_inLine (enrolled : s.enrolled slot f = some k) (state : (s.truck k).state.inLine = true) :
    leaveRule slot f s = ((s.takenFrom k).setSilence k, .refused .leave .wrongState false) := by
  rcases (TruckState.inLine_iff _).1 state with state | state | state | state <;>
    simp only [leaveRule, enrolled, State.takenFrom_state, state]

theorem cancelRule_queued (enrolled : s.enrolled slot f = some k) (state : (s.truck k).state = .queued) :
    cancelRule slot f s = (((s.takenFrom k).unqueue k).enterStandby k none).limit k := by
  simp only [cancelRule, enrolled, State.takenFrom_state, state]

theorem cancelRule_standby (enrolled : s.enrolled slot f = some k) (state : (s.truck k).state = .standby) :
    cancelRule slot f s = (s.takenFrom k).limit k := by
  simp only [cancelRule, enrolled, State.takenFrom_state, state]

theorem cancelRule_raisePending (enrolled : s.enrolled slot f = some k) (state : (s.truck k).state = .raisePending) :
    cancelRule slot f s = (((s.takenFrom k).removeEntries fun e => e.isTruckOf k).enterStandby k none).limit k := by
  simp only [cancelRule, enrolled, State.takenFrom_state, state]

theorem cancelRule_onWire (enrolled : s.enrolled slot f = some k)
    (state : (s.truck k).state = .drawing ∨ (s.truck k).state = .lowering ∨ (s.truck k).state = .silent) :
    cancelRule slot f s = ((s.takenFrom k).setSilence k, .refused .cancel .wrongState false) := by
  rcases state with state | state | state <;>
    simp only [cancelRule, enrolled, State.takenFrom_state, state]

end TruckPort

/-- Settles O10: the truck's state picks the case of R62 and of R106, and taking the frame writes its record alone. -/
theorem cancelAndLeaveInEachState : Obligations.CancelAndLeaveInEachState := by
  intro s k slot f hears named held t idle heard standby unqueued limit refuses frees
  have enrolled := State.enrolled_eq_some named held
  have limited {u : State} {r : Truck} (eq : cancelRule slot f s = (u.setTruck k r).limit k) : limit u r :=
    State.request_truck_of_rule hears (eq.trans (u.limit_setTruck k r))
  have freed {u : State} (eq : leaveRule slot f s = (u.freeSlot k, .ack .leave false [byte (k.val + 1)])) : frees u := by
    rw [byte_of_named named] at eq
    exact State.request_truck_of_rule hears eq
  have refused {r : Truck} (taken : (s.takenFrom k).setSilence k = s.setTruck k r)
      (wire : t.state = .drawing ∨ t.state = .lowering ∨ t.state = .silent) (inLine : t.state.inLine = true) :
      refuses r :=
    ⟨State.request_truck_of_rule hears (taken ▸ cancelRule_onWire enrolled wire),
      State.request_truck_of_rule hears (taken ▸ leaveRule_inLine enrolled inLine)⟩
  have still (state : t.state ≠ .standby) : s.takenFrom k = s.setTruck k heard := by
    rw [State.takenFrom_eq, if_neg state]
  refine ⟨fun state => ⟨limited ?_, freed (leaveRule_standby enrolled state)⟩,
    fun state => ⟨limited ?_, freed (leaveRule_queued enrolled state)⟩, fun state => ⟨limited ?_, ?_⟩, fun state => ?_,
    fun state => refused ?_ (.inr (.inr state)) (by rw [state]; rfl)⟩
  · rw [cancelRule_standby enrolled state, State.takenFrom_eq, if_pos state]
  · rw [cancelRule_queued enrolled state, still (by rw [state]; exact nofun), State.unqueue_setTruck,
      State.enterStandby_setTruck]
    rfl
  · rw [cancelRule_raisePending enrolled state, still (by rw [state]; exact nofun), State.removeEntries_setTruck,
      State.enterStandby_setTruck, State.removeEntries_now, State.removeEntries_params]
    rfl
  · rw [← State.takenFrom_setSilence_watched s k (.inl state)]
    exact State.request_truck_of_rule hears (leaveRule_inLine enrolled (by rw [state]; rfl))
  · rcases state with state | state
    · exact refused (s.takenFrom_setSilence_watched k (.inr (.inl state))) (.inl state) (by rw [state]; rfl)
    · exact refused (s.takenFrom_setSilence_watched k (.inr (.inr state))) (.inr (.inl state)) (by rw [state]; rfl)
  · exact s.takenFrom_setSilence_silent k state

end Sys2Proof.Machine

namespace Sys2Proof.Machine

/-! ### RAISE -/

section Raise
variable {s : State} {k : Slot} {slot : Byte} {f : U16}

/-- Checks 2 to 7 of R103, each with its reason, in order. -/
def State.raiseChecks (s : State) (k : Slot) (span : Nat) : List (Bool × Reason) :=
  [(s.sect != .running, .notRunning), ((s.truck k).state != .standby && (s.truck k).state != .queued, .wrongState),
   (!s.inSection span, .spanInvalid), (s.spanState span != .opened, .spanBarred),
   ((s.truck k).holdoff.isSome, .holdoff), (s.occupied span, .spanOccupied)]

theorem State.raiseRefusal_eq (s : State) (k : Slot) (span : Nat) :
    s.raiseRefusal k span = firstFailing (s.raiseChecks k span) := by
  simp [State.raiseRefusal, State.raiseChecks, State.barredSpan, firstFailing_cons, firstFailing_nil]

/-- Taking the frame moves no check of R103. -/
theorem State.raiseRefusal_takenFrom (s : State) (k : Slot) (span : Nat) :
    (s.takenFrom k).raiseRefusal k span = s.raiseRefusal k span := by
  have holdoff : ((s.takenFrom k).truck k).holdoff = (s.truck k).holdoff := by
    rw [State.takenFrom_eq, State.truck_setTruck_same]
  unfold State.raiseRefusal
  rw [State.takenFrom_state, holdoff]
  rfl

/-- A RAISE taken from a STANDBY truck (R104). -/
theorem State.acceptRaise_standby (span request iMin : Nat) (standby : (s.truck k).state = .standby) :
    (s.takenFrom k).acceptRaise k span request iMin =
      ({ s with queue := s.queue ++ [⟨k, span, true⟩] } : State).setTruck k { s.truck k with
        lastFrame := some s.now, request := min request 3000, iMin := max 200 (min iMin (min request 3000))
        state := .queued, throughout := false, idle := none
        queueWait := some (after s.now (s.params.queueWait * 1000)) } := by
  rw [State.takenFrom_eq, State.acceptRaise, State.truck_setTruck_same, if_neg (by rw [standby]; exact nofun),
    State.setTruck_setTruck]
  rfl

/-- A RAISE taken from a QUEUED truck (R105). -/
theorem State.acceptRaise_queued (span request iMin : Nat) (queued : (s.truck k).state = .queued) :
    (s.takenFrom k).acceptRaise k span request iMin =
      ({ s with queue := s.queue.map fun e => if e.slot = k then ⟨k, span, true⟩ else e } : State).setTruck k
        { s.truck k with
          lastFrame := some s.now, request := min request 3000, iMin := max 200 (min iMin (min request 3000)) } := by
  rw [State.takenFrom_eq, State.acceptRaise, State.truck_setTruck_same, if_pos queued, State.setTruck_setTruck,
    if_neg (by rw [queued]; exact nofun)]
  rfl

theorem raiseRule_refused {span : Byte} {request iMin : U16} {r : Reason} (enrolled : s.enrolled slot f = some k)
    (refused : firstFailing (s.raiseChecks k span.toNat) = some r) :
    raiseRule slot f span request iMin s = ((s.takenFrom k).setSilence k, .refused .raise r false) := by
  rw [← State.raiseRefusal_eq] at refused
  simp only [raiseRule, enrolled, State.raiseRefusal_takenFrom, refused]

theorem raiseRule_taken {span : Byte} {request iMin : U16} (enrolled : s.enrolled slot f = some k)
    (passed : firstFailing (s.raiseChecks k span.toNat) = none) :
    raiseRule slot f span request iMin s =
      ((s.takenFrom k).acceptRaise k span.toNat request.toNat iMin.toNat).limit k := by
  rw [← State.raiseRefusal_eq] at passed
  simp only [raiseRule, enrolled, State.raiseRefusal_takenFrom, passed]

end Raise

/-- Settles O11: R103's checks in order, then the queue's entry written at the tail or in its place. -/
theorem raiseCheckedThenQueued : Obligations.RaiseCheckedThenQueued := by
  intro s k slot span f request iMin hears named held t idle checks first req asks
  have enrolled := State.enrolled_eq_some named held
  have taken {u : State} {r : Truck} (passed : first = none)
      (eq : (s.takenFrom k).acceptRaise k span.toNat request.toNat iMin.toNat = u.setTruck k r) :
      exec (.raise slot f span request iMin) s =
        .next ((u.setTruck k { r with refusal := none }).send .truck ((u.setTruck k r).limitAnswer k)) :=
    State.request_truck_of_rule hears ((raiseRule_taken enrolled passed).trans (eq ▸ u.limit_setTruck k r))
  refine ⟨fun r refused => ?_, fun passed standby => taken passed (State.acceptRaise_standby _ _ _ standby),
    fun passed queued => taken passed (State.acceptRaise_queued _ _ _ queued)⟩
  rw [← State.takenFrom_setSilence]
  exact State.request_truck_of_rule hears (raiseRule_refused enrolled refused)

/-! ### The LIMIT answer -/

section Limit
variable {s : State} {k : Slot}

/-- The place of a slot whose one entry ahead of which none is its own (R77). -/
theorem State.queuePosition_eq {before behind : List QueueEntry} {e : QueueEntry} (place : s.queue = before ++ e :: behind)
    (others : ∀ q ∈ before, q.slot ≠ k) (own : e.slot = k) : s.queuePosition k = before.length + 1 := by
  have found : s.queue.findIdx? (fun e => e.slot == k) = some before.length := by
    rw [place, List.findIdx?_append, List.findIdx?_eq_none_iff.2 fun q mem => by simpa using others q mem]
    simp [List.findIdx?_cons, own]
  rw [State.queuePosition, found]

theorem State.lowerByFrom_absent (absent : s.n = none) (ref : Nat) : s.lowerByFrom ref = none := by
  rw [State.lowerByFrom, absent]

/-- The lowest span of a section that satisfies `p`. -/
theorem find_range {n u : Nat} {p : Nat → Bool} (inside : u < n) (meets : p u = true) (below : ∀ i < u, p i = false) :
    (List.range n).find? p = some u := by
  rw [List.find?_range_eq_some]
  exact ⟨meets, List.mem_range.2 inside, fun i least => by simp [below i least]⟩

/-- The first barred span at the reference span or above it gives the joint (R145). -/
theorem State.lowerByFrom_eq {n ref u : Nat} (count : s.n = some n) (above : ref ≤ u) (inside : u < n)
    (barred : s.spanState u ≠ .opened) (between : ∀ i, ref ≤ i → i < u → s.spanState i = .opened) :
    s.lowerByFrom ref = some (if u = ref then ref + 1 else u) := by
  have found : (List.range n).find? (fun u => ref ≤ u && s.barredSpan u) = some u := by
    refine find_range inside (by simp [above, State.barredSpan, barred]) fun i least => ?_
    by_cases reached : ref ≤ i
    · simp [State.barredSpan, between i reached least]
    · simp [reached]
  rw [State.lowerByFrom, count]
  simp only [found]

theorem State.lowerByFrom_open {n ref : Nat} (count : s.n = some n)
    (opened : ∀ i, ref ≤ i → i < n → s.spanState i = .opened) : s.lowerByFrom ref = none := by
  have found : (List.range n).find? (fun u => ref ≤ u && s.barredSpan u) = none := by
    refine List.find?_eq_none.2 fun u mem => ?_
    by_cases reached : ref ≤ u
    · simp [State.barredSpan, opened u reached (List.mem_range.1 mem)]
    · simp [reached]
  rw [State.lowerByFrom, count]
  simp only [found]

theorem State.referenceSpan_queued {e : QueueEntry} (state : (s.truck k).state = .queued)
    (found : s.queue.find? (fun e => e.slot == k) = some e) : s.referenceSpan k = some e.span := by
  rw [State.referenceSpan, state]
  exact congrArg (Option.map QueueEntry.span) found

theorem State.referenceSpan_inLine {e : Entry} (state : (s.truck k).state.inLine = true)
    (found : s.line.find? (fun e => e.isTruckOf k) = some e) : s.referenceSpan k = some e.span := by
  have span : s.spanOfTruck k = some e.span := congrArg (Option.map Entry.span) found
  rw [State.referenceSpan]
  rcases (TruckState.inLine_iff _).1 state with state | state | state | state <;> rw [state] <;> exact span

end Limit

/-- Settles O9: each item of the answer is read off the record, and the lower-by joint is that of the first barred span
from the reference span up. -/
theorem limitAnswerFields : Obligations.LimitAnswerFields := by
  intro s k t
  refine ⟨_, _, _, rfl, fun state => ?_, fun state => ?_, fun state => ?_, fun state => ?_, fun state => ?_,
    fun state => if_neg state, fun before e behind place others own state => ?_, fun absent => ?_,
    fun n ref count reference => ?_⟩
  · refine ⟨?_, ?_, if_neg (by rw [state]; exact nofun)⟩
    · rw [state]
      cases t.panto <;> rfl
    · rw [State.referenceSpan, state]
      rfl
  · rw [state]
    cases t.panto <;> rfl
  · rw [state]
    rfl
  · rw [state]
    rfl
  · rcases state with state | state <;> rw [state] <;> rfl
  · rw [if_pos state, State.queuePosition_eq place others own]
  · cases s.referenceSpan k with
    | none => rfl
    | some ref => exact State.lowerByFrom_absent absent ref
  · have span : s.referenceSpan k = some ref := by
      rcases reference with ⟨queued, e, found, rfl⟩ | ⟨inLine, e, found, rfl⟩
      · exact State.referenceSpan_queued queued found
      · exact State.referenceSpan_inLine inLine found
    rw [span]
    refine ⟨fun barred inside => ?_, fun u above inside barred between => ?_, fun opened => ?_⟩
    · refine (State.lowerByFrom_eq count (Nat.le_refl ref) inside barred fun i least most => ?_).trans (if_pos rfl ▸ rfl)
      exact absurd (Nat.lt_of_le_of_lt least most) (Nat.lt_irrefl ref)
    · refine (State.lowerByFrom_eq count (Nat.le_of_lt above) inside barred between).trans ?_
      rw [if_neg (Nat.ne_of_gt above)]
    · exact State.lowerByFrom_open count opened

end Sys2Proof.Machine

namespace Sys2Proof.Machine

/-! ### STATUS, step by step (R66) -/

section Status
variable {s u : State} {k : Slot} {slot : Byte} {f : U16} {r : Truck}

/-- Step 1 after the frame is taken: the record of what was reported. -/
def Truck.reported (t : Truck) (now idle : Time) (p : Panto) (inForce measured : Nat) : Truck :=
  { t with
    lastFrame := some now, inForce := min inForce 3000, measured := min measured 4095, panto := p
    idle := if t.state = .standby then some idle else t.idle }

theorem State.recordStatus_takenFrom (s : State) (k : Slot) (p : Panto) (inForce measured : Nat) :
    (s.takenFrom k).recordStatus k p inForce measured =
      s.setTruck k ((s.truck k).reported s.now (after s.now (s.params.standbyIdle * 1000)) p inForce measured) := by
  rw [State.takenFrom_eq, State.recordStatus, State.truck_setTruck_same, State.setTruck_setTruck]
  rfl

/-- Steps 4 and 5 and the silence deadline of R72. -/
def State.endStatus (u : State) (k : Slot) (wanted : Nat) : State :=
  ((u.applyWanted k wanted).evaluateCut k).setSilence k

/-- The request and I_min of a wanted current (R67). -/
def Truck.wants (r : Truck) (wanted : Nat) : Truck :=
  { r with
    request := min wanted 3000
    iMin := if min wanted 3000 < r.iMin then max (min wanted 3000) 200 else r.iMin }

theorem State.endStatus_drawing (wanted : Nat) (state : r.state = .drawing) :
    (u.setTruck k r).endStatus k wanted = u.setTruck k { r.wants wanted with
      cutAck := if r.issued < r.inForce then some (r.cutAck.getD (after u.now u.params.cutAcknowledge)) else none
      silence := some (after u.now u.params.silence) } := by
  simp [State.endStatus, State.applyWanted, State.evaluateCut, State.setSilence, state, Truck.wants, Config.maxTruck]

theorem State.endStatus_raisePending (wanted : Nat) (state : r.state = .raisePending) :
    (u.setTruck k r).endStatus k wanted = u.setTruck k { r.wants wanted with
      cutAck := none, silence := some (after u.now u.params.silence) } := by
  simp [State.endStatus, State.applyWanted, State.evaluateCut, State.setSilence, state, Truck.wants, Config.maxTruck]

theorem State.endStatus_lowering (wanted : Nat) (state : r.state = .lowering) :
    (u.setTruck k r).endStatus k wanted = u.setTruck k { r with
      cutAck := none, silence := some (after u.now u.params.silence) } := by
  simp [State.endStatus, State.applyWanted, State.evaluateCut, State.setSilence, state]

theorem State.endStatus_offWire (wanted : Nat) (state : r.state = .standby ∨ r.state = .queued) :
    (u.setTruck k r).endStatus k wanted = u.setTruck k { r with cutAck := none } := by
  rcases state with state | state <;>
    simp [State.endStatus, State.applyWanted, State.evaluateCut, State.setSilence, state]

/-- The record of step 1 in the slot. -/
def State.reported (s : State) (k : Slot) (p : Panto) (inForce measured : Nat) : Truck :=
  (s.truck k).reported s.now (after s.now (s.params.standbyIdle * 1000)) p inForce measured

theorem statusRule_up {panto : Byte} (inForce measured wanted : U16) (enrolled : s.enrolled slot f = some k)
    (up : panto ≠ 0) :
    statusRule slot f panto inForce measured wanted s =
      (((s.setTruck k (s.reported k .up inForce.toNat measured.toNat)).pantoTransition k .up).endStatus k
        wanted.toNat).limit k := by
  have direction : pantoOf panto = .up := if_neg up
  simp only [statusRule, enrolled, State.recordStatus_takenFrom, State.endStatus, direction]
  rfl

theorem statusRule_down (inForce measured wanted : U16) (enrolled : s.enrolled slot f = some k) :
    statusRule slot f 0 inForce measured wanted s =
      ((((s.removeEntries fun e => e.hasOrigin k f).setTruck k
        (s.reported k .down inForce.toNat measured.toNat)).pantoTransition k .down).endStatus k wanted.toNat).limit k := by
  have direction : pantoOf 0 = .down := if_pos rfl
  simp only [statusRule, enrolled, State.recordStatus_takenFrom, State.endStatus, direction, if_true,
    State.downReport, State.removeEntries_setTruck]
  rfl

/-! ### The transition by the pantograph (step 3) -/

/-- A RAISE_PENDING truck that reports UP, or a SILENT one (R75, R112). -/
def Truck.contacted (r : Truck) (cut : Time) : Truck :=
  { r with
    state := .drawing, throughout := false, raiseConfirm := none, silentHold := none
    cutAck := if r.issued < r.inForce then some (r.cutAck.getD cut) else none }

/-- The cut-acknowledge deadline is evaluated on entering DRAWING and again in step 5, with one outcome (R70). -/
theorem State.endStatus_contacted (wanted : Nat) :
    (u.setTruck k (r.contacted (after u.now u.params.cutAcknowledge))).endStatus k wanted =
      u.setTruck k { (r.contacted (after u.now u.params.cutAcknowledge)).wants wanted with
        silence := some (after u.now u.params.silence) } := by
  rw [State.endStatus_drawing _ rfl]
  refine congrArg (u.setTruck k) ?_
  by_cases above : r.issued < r.inForce <;> simp [Truck.contacted, Truck.wants, above]

theorem State.pantoTransition_same (p : Panto) (state : r.state = .standby ∨ r.state = .queued) :
    (u.setTruck k r).pantoTransition k p = u.setTruck k r := by
  rcases state with state | state <;> simp [State.pantoTransition, state]

theorem State.enterDrawing_setTruck :
    (u.setTruck k r).enterDrawing k = u.setTruck k (r.contacted (after u.now u.params.cutAcknowledge)) := by
  rw [State.enterDrawing_eq, State.truck_setTruck_same, State.setTruck_setTruck]
  rfl

theorem State.pantoTransition_down (state : r.state = .drawing ∨ r.state = .silent) :
    (u.setTruck k r).pantoTransition k .down = (u.removeEntries fun e => e.isTruckOf k).setTruck k
      (r.standby (after u.now (u.params.standbyIdle * 1000)) none) := by
  rcases state with state | state <;>
    simp [State.pantoTransition, State.removeTruck, state, State.removeEntries_setTruck, State.enterStandby_setTruck]

theorem State.pantoTransition_down_lowering (state : r.state = .lowering) :
    (u.setTruck k r).pantoTransition k .down = (u.removeEntries fun e => e.isTruckOf k).setTruck k
      (r.standby (after u.now (u.params.standbyIdle * 1000)) u.holdoffTime) := by
  simp only [State.pantoTransition, State.truck_setTruck_same, state, State.removeTruck, State.removeEntries_setTruck,
    State.enterStandby_setTruck, State.removeEntries_now, State.removeEntries_params]
  rfl

theorem State.pantoTransition_raisePending_up (state : r.state = .raisePending) :
    (u.setTruck k r).pantoTransition k .up = u.setTruck k (r.contacted (after u.now u.params.cutAcknowledge)) := by
  simp only [State.pantoTransition, State.truck_setTruck_same, state, State.enterDrawing_setTruck]

/-- A SILENT truck heard UP in RUNNING (R75). -/
theorem State.pantoTransition_silent_up (state : r.state = .silent) (running : u.sect = .running) :
    (u.setTruck k r).pantoTransition k .up = u.setTruck k (r.contacted (after u.now u.params.cutAcknowledge)) := by
  simp only [State.pantoTransition, State.truck_setTruck_same, state, State.enterDrawing_setTruck]
  exact if_pos running

/-- A SILENT truck heard UP outside RUNNING is ordered to lower (R75, R114). -/
theorem State.pantoTransition_silent_up_stopped (state : r.state = .silent) (stopped : u.sect ≠ .running) :
    (u.setTruck k r).pantoTransition k .up = u.setTruck k { r with
      state := .lowering, throughout := false, issued := 0, raiseConfirm := none, silentHold := none, cutAck := none
      lowerConfirm := some (after u.now u.params.lowerConfirm) } := by
  simp only [State.pantoTransition, State.truck_setTruck_same, state, State.enterDrawing_setTruck]
  rw [State.setTruck_sect, if_neg stopped, State.lowerOrder_of_up (.inr (by rw [State.truck_setTruck_same]; rfl))]
  simp [Truck.contacted]

theorem State.pantoTransition_up_wired (state : r.state = .drawing ∨ r.state = .lowering) :
    (u.setTruck k r).pantoTransition k .up = u.setTruck k r := by
  rcases state with state | state <;> simp [State.pantoTransition, state]

theorem State.pantoTransition_raisePending_down (state : r.state = .raisePending) :
    (u.setTruck k r).pantoTransition k .down = u.setTruck k r := by
  simp [State.pantoTransition, state]

end Status

/-- Settles O7: reporting UP moves a RAISE_PENDING or SILENT truck to DRAWING, or to LOWERING outside RUNNING, and no
other; the rest of the report is the same in every state. -/
theorem statusUpInEachState : Obligations.StatusUpInEachState := by
  intro s k slot panto f inForce measured wanted hears named held up t force heard silence request iMin cut leaves
  have enrolled := State.enrolled_eq_some named held
  let r := s.reported k .up inForce.toNat measured.toNat
  have ends {w : Truck} (eq : ((s.setTruck k r).pantoTransition k .up).endStatus k wanted.toNat = s.setTruck k w) :
      leaves w :=
    State.request_truck_of_rule hears
      ((statusRule_up inForce measured wanted enrolled up).trans (eq ▸ s.limit_setTruck k w))
  have still (state : t.state ≠ .standby) : r = heard := by
    show Truck.reported t _ _ _ _ _ = _
    rw [Truck.reported, if_neg state]
  refine ⟨fun state => ends ?_, fun state => ends ?_, fun state => ends ?_, fun state => ends ?_, fun state => ends ?_,
    fun state running => ends ?_, fun state stopped => ends ?_⟩
  · rw [State.pantoTransition_same (r := r) _ (.inl state), State.endStatus_offWire (r := r) _ (.inl state)]
    show s.setTruck k { Truck.reported t _ _ _ _ _ with cutAck := none } = _
    rw [Truck.reported, if_pos state]
  · rw [State.pantoTransition_same (r := r) _ (.inr state), State.endStatus_offWire (r := r) _ (.inr state),
      still (by rw [state]; exact nofun)]
  · rw [State.pantoTransition_raisePending_up (r := r) state, State.endStatus_contacted, still (by rw [state]; exact nofun)]
    rfl
  · rw [State.pantoTransition_up_wired (r := r) (.inl state), State.endStatus_drawing (r := r) _ state,
      still (by rw [state]; exact nofun)]
    rfl
  · rw [State.pantoTransition_up_wired (r := r) (.inr state), State.endStatus_lowering (r := r) _ state,
      still (by rw [state]; exact nofun)]
  · rw [State.pantoTransition_silent_up (r := r) state running, State.endStatus_contacted, still (by rw [state]; exact nofun)]
    rfl
  · rw [State.pantoTransition_silent_up_stopped (r := r) state stopped, State.endStatus_lowering _ rfl,
      still (by rw [state]; exact nofun)]

/-- Settles O8: the phantoms with the truck's tag go first; a truck on the wire then leaves it, and the rest of the
report is the same in every state. -/
theorem statusDownInEachState : Obligations.StatusDownInEachState := by
  intro s k slot f inForce measured wanted hears named held t heard idle request untagged leaves off
  have enrolled := State.enrolled_eq_some named held
  let r := s.reported k .down inForce.toNat measured.toNat
  have ends {u : State} {w : Truck}
      (eq : ((untagged.setTruck k r).pantoTransition k .down).endStatus k wanted.toNat = u.setTruck k w) : leaves u w :=
    State.request_truck_of_rule hears
      ((statusRule_down inForce measured wanted enrolled).trans (eq ▸ u.limit_setTruck k w))
  have still (state : t.state ≠ .standby) : r = heard := by
    show Truck.reported t _ _ _ _ _ = _
    rw [Truck.reported, if_neg state]
  have now : untagged.now = s.now := s.removeEntries_now _
  have params : untagged.params = s.params := s.removeEntries_params _
  have gone (state : t.state = .drawing ∨ t.state = .silent) : off none := by
    refine ends ?_
    have eq : r = heard := still (by rcases state with state | state <;> rw [state] <;> exact nofun)
    rw [State.pantoTransition_down (r := r) state, State.endStatus_offWire _ (.inl rfl), now, params, eq]
    rfl
  refine ⟨fun state => ends ?_, fun state => ends ?_, fun state => ends ?_, fun state => gone (.inl state),
    fun state => ends ?_, fun state => gone (.inr state)⟩
  · rw [State.pantoTransition_same (r := r) _ (.inl state), State.endStatus_offWire (r := r) _ (.inl state)]
    show untagged.setTruck k { Truck.reported t _ _ _ _ _ with cutAck := none } = _
    rw [Truck.reported, if_pos state]
  · rw [State.pantoTransition_same (r := r) _ (.inr state), State.endStatus_offWire (r := r) _ (.inr state),
      still (by rw [state]; exact nofun)]
  · rw [State.pantoTransition_raisePending_down (r := r) state, State.endStatus_raisePending (r := r) _ state, now, params,
      still (by rw [state]; exact nofun)]
    rfl
  · rw [State.pantoTransition_down_lowering (r := r) state, State.endStatus_offWire _ (.inl rfl), State.holdoffTime, now,
      params, still (by rw [state]; exact nofun)]
    rfl

end Sys2Proof.Machine

namespace Sys2Proof.Machine

/-! ### Deadlines of the feeds, the truck table and the raise arbiter -/

theorem State.setEvents_setSide (s : State) (f : Feed) (x : FeedSide) (e : EventFlags) :
    (s.setSide f x).setEvents e = { s with events := e }.setSide f x := by cases f <;> rfl

/-- Settles O14: the condition of each deadline holds, and the record and the flag are written. -/
theorem feedDeadlinesPass : Obligations.FeedDeadlinesPass := by
  intro s f x
  refine ⟨fun passed state => ?_, fun passed state => ?_, fun passed state => ?_⟩ <;>
    refine congrArg Host.Outcome.next ((if_pos ⟨passed, state⟩).trans ?_) <;>
    exact s.setEvents_setSide f _ _

/-- Settles O40: each deadline's condition holds, and the operation that follows is given by its own equation. -/
theorem truckTimersPass : Obligations.TruckTimersPass := by
  intro s k t line
  refine ⟨fun passed state => ?_, fun passed => ?_, fun passed state => ?_, fun passed => ?_⟩
  · exact congrArg Host.Outcome.next ((if_pos ⟨passed, state⟩).trans (s.freeSlot_eq k))
  · exact congrArg Host.Outcome.next (if_pos passed)
  · exact congrArg Host.Outcome.next ((if_pos ⟨passed, state⟩).trans ((s.unqueue k).enterStandby_eq k none))
  · exact congrArg Host.Outcome.next (if_pos passed)

/-- Settles O41: each deadline's condition holds; a truck DRAWING is one that a lower order acts on. -/
theorem silenceAndCutDeadlinesPass : Obligations.SilenceAndCutDeadlinesPass := by
  intro s k t silent
  refine ⟨fun passed state => ?_, fun passed state => ?_, fun passed state => ?_⟩
  · exact congrArg Host.Outcome.next (if_pos ⟨passed, by simpa using state⟩)
  · exact congrArg Host.Outcome.next (if_pos ⟨passed, state⟩)
  · exact congrArg Host.Outcome.next ((if_pos ⟨passed, state⟩).trans (State.lowerOrder_of_up (.inr state)))

/-! ### A truck's entry turned into a phantom -/

theorem phantomsIn_replaced {ahead behind : List Entry} {e e' : Entry} (was : e.isPhantom = false)
    (now : e'.isPhantom = true) :
    phantomsIn (ahead ++ e' :: behind) = phantomsIn (ahead ++ e :: behind) + 1 := by
  simp [phantomsIn, was, now]
  omega

theorem Entry.not_isPhantom_of_isTruckOf {e : Entry} {k : Slot} (own : e.isTruckOf k = true) : e.isPhantom = false := by
  unfold Entry.isTruckOf at own
  unfold Entry.isPhantom
  cases kind : e.kind with
  | truck j => rfl
  | phantom =>
    rw [kind] at own
    exact absurd own Bool.false_ne_true

section Unconfirmed
variable {s : State} {k : Slot} {f : U16} {ahead behind : List Entry} {e : Entry}

/-- A conversion writes the line order, the bars told and a fault flag alone (R83). -/
theorem State.convert_frame (s : State) (k : Slot) (current : Nat) (origin : Option (Slot × U16)) :
    s.convert k current origin = { s with
      line := (s.convert k current origin).line, phantomCount := (s.convert k current origin).phantomCount
      spanStates := (s.convert k current origin).spanStates, faults := (s.convert k current origin).faults } := by
  unfold State.convert
  split
  · rfl
  · rw [State.removeEntries_frame]
    rfl

/-- The truck's entry converted and the truck in STANDBY, with the event set (R76, R113). -/
def State.unconfirmed (s : State) (k : Slot) (holdoff : Option Time) (set : EventFlags → EventFlags) : State :=
  let u := (s.convert k (s.truck k).exposure (s.originOf k)).enterStandby k holdoff
  u.setEvents (set u.events)

/-- The truck's record, the clock and the parameters are as they were before the conversion. -/
theorem State.unconfirmed_eq (holdoff : Option Time) (set : EventFlags → EventFlags) (fleet : (s.truck k).fleet = some f)
    {v : State} (converted : s.convert k (max (s.truck k).issued (s.truck k).inForce) (some (k, f)) = v) :
    s.unconfirmed k holdoff set = { v with events := set s.events }.setTruck k
      ((s.truck k).standby (after s.now (s.params.standbyIdle * 1000)) holdoff) := by
  have origin : s.originOf k = some (k, f) := by rw [State.originOf, fleet]; rfl
  have frame := s.convert_frame k (s.truck k).exposure (s.originOf k)
  rw [origin, Truck.exposure, converted] at frame
  rw [State.unconfirmed, origin, Truck.exposure, converted, frame]
  rfl

end Unconfirmed

/-- Settles O42: the conversion keeps the truck's record, the clock and the parameters, so both rules end alike. -/
theorem unconfirmedTruckBecomesPhantom : Obligations.UnconfirmedTruckBecomesPhantom := by
  intro s k f ahead behind e fleet place own others t ends
  have ended {c : Instr} {holdoff : Option Time} {set : EventFlags → EventFlags}
      (taken : exec c s = .next (s.unconfirmed k holdoff set)) : ends c holdoff (set s.events) := by
    refine ⟨fun room n unused below => ?_, fun full => ?_⟩
    · have count : phantomsIn s.line + 1 = phantomsIn (ahead ++ { e with
          kind := .phantom n (max t.issued t.inForce) (after s.now (s.params.phantomHold * 1000)) (some (k, f)) }
            :: behind) := by
        rw [place]
        exact (phantomsIn_replaced (Entry.not_isPhantom_of_isTruckOf own) rfl).symm
      rw [taken, State.unconfirmed_eq holdoff set fleet (State.convert_in_place room place own others unused below), count]
      rfl
    · rw [taken, State.unconfirmed_eq holdoff set fleet (State.convert_overflows full)]
      rfl
  refine ⟨fun passed state => ended (set := fun events => { events with raiseTimeout := true }) ?_,
    fun passed state => ended (set := fun events => { events with truckLost := true }) ?_⟩
  · exact congrArg Host.Outcome.next (if_pos ⟨passed, state⟩)
  · exact congrArg Host.Outcome.next (if_pos ⟨passed, state⟩)

end Sys2Proof.Machine

namespace Sys2Proof.Machine

/-! ### Deadlines of entries -/

section Entries
variable {s : State} {r : EntryRef} {ahead behind : List Entry} {e : Entry}

theorem State.entry_eq (place : s.line = ahead ++ e :: behind) (own : e.isRef r = true)
    (others : ∀ x ∈ ahead ++ behind, x.isRef r = false) : s.entry r = some e := by
  rw [State.entry, place, List.find?_append,
    List.find?_eq_none.2 fun x mem => by simp [others x (List.mem_append_left _ mem)], List.find?_cons, own]
  rfl

/-- The one entry named is changed in its place. -/
theorem State.updateEntry_eq (f : Entry → Entry) (kind : (f e).kind = e.kind) (place : s.line = ahead ++ e :: behind)
    (own : e.isRef r = true) (others : ∀ x ∈ ahead ++ behind, x.isRef r = false) :
    s.updateEntry r f = { s with line := ahead ++ f e :: behind, phantomCount := phantomsIn s.line } := by
  have other (l : List Entry) (unnamed : ∀ x ∈ l, x.isRef r = false) :
      (l.map fun e => if e.isRef r then f e else e) = l := by
    rw [List.map_congr_left (g := id) fun x mem => by simp [unnamed x mem], List.map_id]
  have line : (s.line.map fun e => if e.isRef r then f e else e) = ahead ++ f e :: behind := by
    rw [place, List.map_append, List.map_cons, if_pos own, other ahead fun x mem => others x (List.mem_append_left _ mem),
      other behind fun x mem => others x (List.mem_append_right _ mem)]
  have count : phantomsIn (ahead ++ f e :: behind) = phantomsIn s.line := by
    have same : (f e).isPhantom = e.isPhantom := by rw [Entry.isPhantom, Entry.isPhantom, kind]
    simp [phantomsIn, place, List.countP_cons, same]
  rw [State.updateEntry, State.putLine, line, count]

theorem exec_nextJointDeadline_passed (named : s.entry r = some e) (passed : due e.nextJoint s.now = true)
    (known : e.conf = .known) : exec (.nextJointDeadline r) s = .next (s.updateEntry r Entry.becomeStale) := by
  show execNextJointDeadline r s = _
  simp only [execNextJointDeadline, named, passed, known, and_self, if_true]

/-- The entry that LOST_DEADLINE leaves without a deadline (R94). -/
def State.unplaced (s : State) (r : EntryRef) : State := s.updateEntry r fun e => { e with lost := none }

theorem exec_lostDeadline_phantom {m : PhantomNo} (named : s.entry (.phantom m) = some e)
    (passed : due e.lost s.now = true) (stale : e.conf = .stale) :
    exec (.lostDeadline (.phantom m)) s = .next (s.unplaced (.phantom m)) := by
  show execLostDeadline (.phantom m) s = _
  simp only [execLostDeadline, named, passed, stale, and_self, if_true]
  rfl

theorem exec_lostDeadline_truck {k : Slot} (named : s.entry (.truck k) = some e) (passed : due e.lost s.now = true)
    (stale : e.conf = .stale) :
    exec (.lostDeadline (.truck k)) s =
      .next (((s.unplaced (.truck k)).setEvents { s.events with positionLost := true }).lowerOrder k) := by
  show execLostDeadline (.truck k) s = _
  simp only [execLostDeadline, named, passed, stale, and_self, if_true]
  rfl

/-- The record after a lower order (R114). -/
theorem State.lowerOrder_eq (s : State) (k : Slot) :
    s.lowerOrder k = s.setTruck k (match (s.truck k).state with
      | .raisePending | .drawing => { s.truck k with
          state := .lowering, throughout := false, issued := 0, raiseConfirm := none, cutAck := none
          lowerConfirm := some (after s.now s.params.lowerConfirm) }
      | .silent => { s.truck k with issued := 0 }
      | .free | .standby | .queued | .lowering => s.truck k) := by
  cases state : (s.truck k).state <;> simp [State.lowerOrder, state]

end Entries

/-- Settles O39: the named entry is changed in its place, and the line order's other entries stand. -/
theorem entryDeadlinesPass : Obligations.EntryDeadlinesPass := by
  intro s r ahead behind e place own others with'
  have named := State.entry_eq place own others
  have unplaced : s.unplaced r = with' { e with lost := none } :=
    State.updateEntry_eq (fun e => { e with lost := none }) rfl place own others
  refine ⟨fun passed known d stale deadline interval => ?_, fun passed stale => ⟨?_, ?_⟩,
    fun m c x o phantom kind passed => ?_⟩
  · rw [exec_nextJointDeadline_passed named passed known,
      State.updateEntry_eq Entry.becomeStale rfl place own others, Entry.becomeStale, deadline, interval]
    rfl
  · rintro m rfl
    rw [exec_lostDeadline_phantom named passed stale, unplaced]
  · rintro k rfl
    rw [exec_lostDeadline_truck named passed stale, unplaced]
    exact congrArg Host.Outcome.next (State.lowerOrder_eq _ k)
  · subst phantom
    have expiry : e.expiry? = some x := by rw [Entry.expiry?, kind]
    show execPhantomExpiry m s = _
    simp only [execPhantomExpiry, named, expiry, passed, if_true]

end Sys2Proof.Machine

namespace Sys2Proof.Machine

/-! ### The configuration store -/

section Store
variable {s : State}

theorem storeRule_busy (flag : Bool) (busy : s.store ≠ .idle) : storeRule flag s = (s, .refused .store .storeBusy flag) :=
  if_pos (s.storeBusy_iff.2 busy)

theorem storeRule_invalid (flag : Bool) (idle : s.store = .idle) (invalid : s.valid = false) :
    storeRule flag s = (s, .refused .store .wrongState flag) := by
  simp [storeRule, State.storeBusy, idle, invalid]

theorem storeRule_taken (flag : Bool) (idle : s.store = .idle) (valid : s.valid = true) :
    storeRule flag s = ({ s with stored := s.stored.marked, store := .writing s.now }, .ack .store flag []) := by
  simp [storeRule, State.storeBusy, idle, valid]

theorem exec_store_of_rule {u : State} {a : Answer} (hears : s.hears .dispatch = true)
    (answer : storeRule s.isoBusy { s with isoSeq := .none } = (u, a)) : exec .store s = .next (u.send .dispatch a) :=
  congrArg Host.Outcome.next (State.request_abandoning hears answer)

theorem exec_storeWriteEnd_writing (agrees : Bool) (busy : s.store ≠ .idle) :
    exec (.storeWriteEnd agrees) s = .next (if agrees then
        { s with stored := s.workingCopy, store := .idle, events := { s.events with storeDone := true } }
      else
        { s with stored := s.stored.marked, store := .idle, events := { s.events with storeFailed := true } }) := by
  show execStoreWriteEnd agrees s = _
  unfold execStoreWriteEnd
  split
  next idle => exact absurd idle busy
  next => rfl

end Store

/-- Settles O19: a working copy passes its check and a marked one fails it. -/
theorem storeWritesTheCopy : Obligations.StoreWritesTheCopy := by
  intro s
  refine ⟨fun hears busy => exec_store_of_rule hears (storeRule_busy _ busy),
    fun hears idle invalid => exec_store_of_rule hears (storeRule_invalid _ idle invalid),
    fun hears idle valid => ⟨_, marked_fails s.stored, exec_store_of_rule hears (storeRule_taken _ idle valid)⟩,
    fun busy => ⟨⟨_, workingCopy_passes s, rfl, rfl, rfl, exec_storeWriteEnd_writing true busy⟩,
      ⟨_, marked_fails s.stored, exec_storeWriteEnd_writing false busy⟩⟩⟩

/-! ### STOP, CLEAR_COUNTERS and WARM_RESET -/

section SectionControl
variable {s : State} {k : Slot}

theorem exec_stop_of_rule {u : State} {a : Answer} (hears : s.hears .dispatch = true)
    (answer : stopRule s.isoBusy { s with isoSeq := .none } = (u, a)) : exec .stop s = .next (u.send .dispatch a) :=
  congrArg Host.Outcome.next (State.request_abandoning hears answer)

theorem stopRule_running (flag : Bool) (running : s.sect = .running) :
    stopRule flag s = (s.stopped.stopTrucks, .ack .stop flag [1]) := by
  simp only [stopRule, running]
  rfl

theorem stopRule_stopped (flag : Bool) (stopped : s.sect = .stopped) : stopRule flag s = (s, .ack .stop flag [1]) := by
  simp only [stopRule, stopped]
  rfl

theorem stopRule_unconfigured (flag : Bool) (unconfigured : s.sect = .unconfigured) :
    stopRule flag s = (s, .ack .stop flag [0]) := by
  simp only [stopRule, unconfigured]
  rfl

/-- What STOP makes of a truck's record (R115). -/
theorem State.stopTruck_truck (s : State) (k : Slot) :
    (s.stopTruck k).truck k = match (s.truck k).state with
      | .queued =>
        { (s.truck k).standby (after s.now (s.params.standbyIdle * 1000)) none with refusal := some .notRunning }
      | .raisePending | .drawing => { s.truck k with
          state := .lowering, throughout := false, issued := 0, raiseConfirm := none, cutAck := none
          lowerConfirm := some (after s.now s.params.lowerConfirm) }
      | .silent => { s.truck k with issued := 0 }
      | .free | .standby | .lowering => s.truck k := by
  cases state : (s.truck k).state <;> simp [State.stopTruck, state, State.expel_eq, State.lowerOrder_eq]

end SectionControl

/-- Settles O21: each truck is acted on once, by the record it holds. -/
theorem stopOrdersTrucksOff : Obligations.StopOrdersTrucksOff := by
  intro s hears
  refine ⟨fun running => ?_, fun stopped => exec_stop_of_rule hears (stopRule_stopped _ stopped),
    fun unconfigured => exec_stop_of_rule hears (stopRule_unconfigured _ unconfigured)⟩
  let u : State := { s with isoSeq := .none }
  obtain ⟨records, frame⟩ := u.stopped.stopTrucks_spec
  have rule : stopRule s.isoBusy u = (u.stopped.stopTrucks, .ack .stop s.isoBusy [1]) := stopRule_running _ running
  generalize u.stopped.stopTrucks = t at records frame rule
  refine ⟨t.trucks, (exec_stop_of_rule hears rule).trans ?_, fun k => ?_⟩
  · rw [frame]
    rfl
  · exact (records k).trans (u.stopped.stopTruck_truck k)

/-- Settles O23: both requests abandon the isolation sequence and are answered by their own rule. -/
theorem clearCountersAndWarmResetAcknowledged : Obligations.ClearCountersAndWarmResetAcknowledged := by
  intro s hears zero
  exact ⟨congrArg Host.Outcome.next (State.request_abandoning hears rfl),
    congrArg Host.Outcome.next (State.request_abandoning hears rfl)⟩

/-! ### The raise gate and HEALTHY -/

theorem FaultFlags.any_eq_false (f : FaultFlags) : f.any = false ↔ f = {} := by
  obtain ⟨a, b, c, d, e⟩ := f
  simp [FaultFlags.any, and_assoc]

theorem reached_iff (d now : Time) : reached d now = true ↔ ¬(1 ≤ (d - now).toNat ∧ (d - now).toNat ≤ 2147483647) := by
  rw [reached, ahead, Bool.not_eq_true', Bool.and_eq_false_iff]
  simp only [decide_eq_false_iff_not]
  exact Decidable.not_and_iff_not_or_not.symm

/-- Settles O26: the conditions of each list, one by one. -/
theorem gateAndHealthyConditions : Obligations.GateAndHealthyConditions := by
  intro s
  constructor
  · simp [State.gateOpen, State.gateConditions, FaultFlags.any_eq_false, reached_iff, mem_allSlots, Option.all_eq_true]
  · simp [State.healthy, State.healthyConditions, State.inReset, FaultFlags.any_eq_false]
    exact ⟨fun ⟨awake, running, feed, faults⟩ => ⟨running, feed, faults, awake⟩,
      fun ⟨running, feed, faults, awake⟩ => ⟨awake, running, feed, faults⟩⟩

end Sys2Proof.Machine

namespace Sys2Proof.Machine

/-! ### The end of a cold reset -/

section ColdReset
variable (s : State)

theorem State.loadStored_passes (passes : s.stored.passes = true) :
    s.loadStored = { s with spanCount := s.stored.spanCount, spans := s.stored.spans, params := s.stored.params } :=
  if_pos passes

theorem State.loadStored_fails (fails : s.stored.passes = false) :
    s.loadStored = { s with spanCount := none, spans := Vector.replicate 16 {}, params := {} } :=
  if_neg (by rw [fails]; exact Bool.false_ne_true)

/-- `s` with the configuration, the section, the spans and the channels of `t`, out of its cold reset. -/
def State.outOfCold (s t : State) : State :=
  { s with
    spanCount := t.spanCount, spans := t.spans, params := t.params, sect := t.sect, derived := t.derived
    spanStates := t.spanStates, channels := t.channels, coldReset := false, store := .idle }

/-- The part as a cold reset leaves it (R15, R85, R138). -/
structure State.EndsCold (s t : State) : Prop where
  spanCount : t.spanCount = s.loadStored.spanCount
  spans : t.spans = s.loadStored.spans
  params : t.params = s.loadStored.params
  sect : t.sect = if t.valid then .stopped else .unconfigured
  derived : t.derived = t.computeNet
  states : ∀ i, t.spanState i = .opened
  channel : ∀ j, t.channel j = if s.det[j] then (s.channel j).risen s.now t.params.overlong else s.channel j
  frame : t = s.outOfCold t

/-- The part before the inputs rise. -/
def State.coldSettled : State :=
  ({ s.loadStored with
    coldReset := false, store := .idle, spanStates := Vector.replicate 16 .opened } : State).settleSection

theorem State.endCold_eq : s.endCold = s.coldSettled.inputsRise := rfl

theorem State.coldSettled_frame : s.coldSettled = { s with
    spanCount := s.coldSettled.spanCount, spans := s.coldSettled.spans, params := s.coldSettled.params
    sect := s.coldSettled.sect, derived := s.coldSettled.derived, spanStates := Vector.replicate 16 .opened
    coldReset := false, store := .idle } := by
  unfold State.coldSettled State.loadStored
  split <;> rfl

theorem State.spanState_replicate {u : State} {x : SpanState} (states : u.spanStates = Vector.replicate 16 x) {i : Nat}
    (small : i < 16) : u.spanState i = x := by
  rw [State.spanState, states, Vector.getElem?_eq_getElem small, Vector.getElem_replicate]
  rfl

theorem State.coldSettled_spanState (i : Nat) : s.coldSettled.spanState i = .opened := by
  by_cases small : i < 16
  · exact State.spanState_replicate rfl small
  · exact State.spanState_beyond _ (Nat.le_of_not_lt small)

theorem State.endCold_ends : s.EndsCold s.endCold := by
  have settled := s.coldSettled_frame
  have states := s.coldSettled_spanState
  obtain ⟨rises, frame⟩ := s.coldSettled.inputsRise_spec
  obtain ⟨count, spans, params⟩ : s.coldSettled.spanCount = s.loadStored.spanCount ∧
    s.coldSettled.spans = s.loadStored.spans ∧ s.coldSettled.params = s.loadStored.params := ⟨rfl, rfl, rfl⟩
  obtain ⟨sect, derived⟩ : s.coldSettled.sect = (if s.coldSettled.valid then .stopped else .unconfigured) ∧
    s.coldSettled.derived = s.coldSettled.computeNet := ⟨rfl, rfl⟩
  have channel (j : Joint) : s.coldSettled.channel j = s.channel j := by rw [settled]; rfl
  have inputs : s.coldSettled.det = s.det ∧ s.coldSettled.now = s.now := by rw [settled]; exact ⟨rfl, rfl⟩
  rw [State.endCold_eq]
  generalize s.coldSettled = w at *
  generalize w.inputsRise = t at *
  rw [inputs.1, inputs.2] at rises
  simp only [channel] at rises
  refine ⟨?_, ?_, ?_, ?_, ?_, ?_, fun j => (rises j).trans ?_, ?_⟩
  · rw [frame]; exact count
  · rw [frame]; exact spans
  · rw [frame]; exact params
  · rw [frame]; exact sect
  · rw [frame]; exact derived
  · rw [frame]; exact states
  · rw [frame]
  · rw [frame, settled]
    rfl

end ColdReset

/-- A part held in reset, out of its cold reset and into a warm one: its blocks held their reset values already (R157;
log 17). -/
theorem State.Holding.outOfCold_clearDynamic {s t : State} (held : s.Holding) (frame : t = s.outOfCold t) (warm : Bool) :
    ({ t.clearDynamic with warmHold := warm } : State) =
      { s.outOfCold t with channels := Vector.replicate 17 {}, warmHold := warm, events := {} } := by
  let f : State → State := fun u =>
    { u.outOfCold t with channels := Vector.replicate 17 {}, warmHold := warm, events := {} }
  calc
    _ = ({ (s.outOfCold t).clearDynamic with warmHold := warm } : State) := by rw [← frame]
    _ = f { s.clearDynamic with
        events := { storeDone := s.events.storeDone, storeFailed := s.events.storeFailed } } := rfl
    _ = f s := congrArg f held

/-- Settles O24: the copy is loaded or the configuration emptied, then the section settled and the inputs read; with
WARM_RST_N held the blocks are cleared once more. -/
theorem coldResetClearsThenLoads : Obligations.ColdResetClearsThenLoads := by
  intro s
  refine ⟨rfl, fun cold held => ?_⟩
  have reset : s.inReset = true := by rw [State.inReset, cold]; rfl
  have holding : s.Holding := held.1 reset
  have warm : s.warmHold = false := Bool.eq_false_iff.2 fun warm => held.2 ⟨cold, warm⟩
  have ends := s.endCold_ends
  have taken : exec .coldResetEnd s =
      .next (if s.warmPin then { s.endCold.clearDynamic with warmHold := true } else s.endCold) :=
    congrArg Host.Outcome.next (if_pos cold)
  generalize s.endCold = t at ends taken
  obtain ⟨count, spans, params, sect, derived, states, channel, frame⟩ := ends
  have loads (passes : s.stored.passes = true) :
      t.spanCount = s.stored.spanCount ∧ t.spans = s.stored.spans ∧ t.params = s.stored.params := by
    rw [count, spans, params, s.loadStored_passes passes]
    exact ⟨rfl, rfl, rfl⟩
  have empties (fails : s.stored.passes = false) :
      t.spanCount = none ∧ t.spans = Vector.replicate 16 {} ∧ t.params = {} := by
    rw [count, spans, params, s.loadStored_fails fails]
    exact ⟨rfl, rfl, rfl⟩
  rcases Bool.eq_false_or_eq_true s.warmPin with pin | pin
  · rw [if_pos pin] at taken
    have again : exec .coldResetEnd s = .next { t.clearDynamic with warmHold := s.warmPin } :=
      taken.trans (congrArg (fun b => Host.Outcome.next { t.clearDynamic with warmHold := b }) pin.symm)
    refine ⟨_, again, loads, empties, sect, derived, states, fun j => ?_, ?_⟩
    · rw [pin, Bool.not_true, Bool.and_false, if_neg Bool.false_ne_true]
      exact Vector.getElem_replicate _
    · rw [if_pos pin]
      exact holding.outOfCold_clearDynamic frame s.warmPin
  · rw [if_neg (by rw [pin]; exact Bool.false_ne_true)] at taken
    refine ⟨_, taken, loads, empties, sect, derived, states, fun j => ?_, ?_⟩
    · rw [pin, channel j, holding.channel j, Bool.not_false, Bool.and_true]
      rfl
    · rw [if_neg (by rw [pin]; exact Bool.false_ne_true)]
      exact frame.trans (congrArg (fun b => ({ s.outOfCold t with warmHold := b } : State)) (warm.trans pin.symm))

/-! ### Warm resets -/

section WarmReset
variable (s : State)

/-- The part before the bars settle and the inputs rise. -/
def State.warmSettled : State := ({ s with warmHold := false } : State).settleSection

theorem State.endWarm_eq : s.endWarm = s.warmSettled.settleBars.inputsRise := rfl

/-- The part as a warm reset leaves it (R16, R85, R138). -/
theorem State.endWarm_ends :
    s.endWarm.sect = (if s.valid then .stopped else .unconfigured) ∧ s.endWarm.derived = s.computeNet ∧
      (∀ i, s.endWarm.spanState i = if s.spanState i = .pendingBar then .barred else s.spanState i) ∧
      (∀ j, s.endWarm.channel j =
        if s.det[j] then (s.channel j).risen s.now s.params.overlong else s.channel j) ∧
      s.endWarm = { s with
        sect := s.endWarm.sect, derived := s.endWarm.derived, spanStates := s.endWarm.spanStates
        channels := s.endWarm.channels, warmHold := false } := by
  obtain ⟨bars, barsFrame⟩ := s.warmSettled.settleBars_spec
  have settled (i : Nat) : s.warmSettled.settleBars.spanState i =
      if s.spanState i = .pendingBar then .barred else s.spanState i := by
    by_cases small : i < 16
    · exact bars i small
    · rw [State.spanState_beyond _ (Nat.le_of_not_lt small), State.spanState_beyond _ (Nat.le_of_not_lt small)]
      rfl
  rw [State.endWarm_eq]
  generalize s.warmSettled.settleBars = w at barsFrame settled
  obtain ⟨rises, frame⟩ := w.inputsRise_spec
  generalize w.inputsRise = t at rises frame
  refine ⟨?_, ?_, fun i => ?_, fun j => (rises j).trans ?_, ?_⟩
  · rw [frame, barsFrame]
    rfl
  · rw [frame, barsFrame]
    rfl
  · rw [← settled i, frame]
    rfl
  · rw [barsFrame]
    rfl
  · rw [frame, barsFrame]
    rfl

end WarmReset

/-- Settles O25: the blocks that a warm reset clears, and what its end settles and reads. -/
theorem warmResetClearsAndKeeps : Obligations.WarmResetClearsAndKeeps := by
  intro s quiet cleared ends
  have ended (u : State) : ends u u.endWarm := by
    obtain ⟨sect, derived, states, channel, frame⟩ := u.endWarm_ends
    refine ⟨sect, derived, states, fun j idle => ?_, frame⟩
    rw [channel j, idle]
    rfl
  refine ⟨fun cold => ?_, fun notCold notHeld => ?_, fun held => ⟨_, ?_, ended _⟩, fun notHeld => ?_,
    fun asked => ⟨_, ?_, ended _⟩⟩
  · exact congrArg Host.Outcome.next (if_pos cold)
  · refine congrArg Host.Outcome.next ((if_neg (by rw [notCold]; exact Bool.false_ne_true)).trans (if_neg ?_))
    rw [notHeld]
    exact Bool.false_ne_true
  · exact congrArg Host.Outcome.next (if_pos held)
  · exact congrArg Host.Outcome.next (if_neg (by rw [notHeld]; exact Bool.false_ne_true))
  · exact congrArg Host.Outcome.next (if_pos asked)

end Sys2Proof.Machine

namespace Sys2Proof.Machine

/-! ### ISO_APPLY -/

section IsoApply
variable {s : State}

theorem isoApplyRule_taken {a b : Nat} (range : s.isoSeq = .toSet a b) :
    isoApplyRule s = ({ s.applyBar a b with isoSeq := .none },
      .ack .isoApply false (byte a :: byte b ::
        (spanRange a b).map fun i => byte ((s.applyBar a b).spanState i).code)) := by
  simp only [isoApplyRule, range]

theorem isoApplyRule_refused (none : ∀ a b, s.isoSeq ≠ .toSet a b) :
    isoApplyRule s = ({ s with isoSeq := .none }, .refused .isoApply .sequence s.isoBusy) := by
  unfold isoApplyRule
  split
  next a b range => exact absurd range (none a b)
  next => rfl

theorem exec_isoApply_of_rule {u : State} {a : Answer} (hears : s.hears .dispatch = true)
    (answer : isoApplyRule s = (u, a)) : exec .isoApply s = .next (u.send .dispatch a) := by
  show Host.Outcome.next (s.request .dispatch isoApplyRule) = _
  rw [State.request_of_hears _ hears, answer]

end IsoApply

/-- Settles O28: the range's open spans are barred and the queue's entries for them expelled. -/
theorem isoApplyBarsTheRange : Obligations.IsoApplyBarsTheRange := by
  intro s hears
  refine ⟨?_, fun none => exec_isoApply_of_rule hears (isoApplyRule_refused none)⟩
  intro a b range _ fresh
  have taken := exec_isoApply_of_rule hears (isoApplyRule_taken range)
  obtain ⟨frame, states, trucks⟩ := s.applyBar_spec a b
  generalize s.applyBar a b = t at taken frame states trucks
  refine ⟨t.spanStates, t.trucks, fun i => ?_, fun k => trucks k, taken.trans ?_⟩
  · rw [State.spanStates_getElem, State.spanStates_getElem]
    exact states i.val i.isLt
  · refine congrArg Host.Outcome.next ?_
    show State.send { t with isoSeq := .none } .dispatch _ = _
    have kept : ({ t with isoSeq := .none } : State) = { s with
        isoSeq := .none, spanStates := t.spanStates, trucks := t.trucks
        queue := s.queue.filter fun e => !fresh e.span } :=
      congrArg (fun u : State => ({ u with isoSeq := .none } : State)) frame
    rw [kept]
    rfl

/-! ### Validity and the geometry writes -/

section Geometry
variable {s : State}

theorem State.valid_iff (s : State) :
    s.valid = true ↔ ∃ n, s.spanCount = some n ∧ ∀ i : Fin 16, i.val < n → s.spans[i].written = true := by
  unfold State.valid configValid
  cases s.spanCount with
  | none => exact ⟨fun no => absurd no Bool.false_ne_true, fun ⟨_, no, _⟩ => nomatch no⟩
  | some n =>
    simp only [List.all_eq_true, Option.some.injEq, exists_eq_left']
    constructor
    · intro all i below
      refine all _ (List.mem_iff_getElem.2 ⟨i.val, ?_, ?_⟩)
      · rw [List.length_take, Vector.length_toList]
        exact Nat.lt_min.2 ⟨below, i.isLt⟩
      · simp
    · intro written r mem
      obtain ⟨i, inside, rfl⟩ := List.mem_iff_getElem.1 mem
      simp only [List.length_take, Vector.length_toList, Nat.lt_min] at inside
      simpa using written ⟨i, inside.2⟩ inside.1

theorem State.n_of_valid (valid : s.valid = true) : s.n = s.spanCount := if_pos valid

theorem State.n_of_invalid (invalid : s.valid = false) : s.n = none :=
  if_neg (by rw [invalid]; exact Bool.false_ne_true)

/-- The resistances of the withins spans, from the lowest upward (R6). -/
theorem State.computeNet_of_valid {n : Nat} (valid : s.valid = true) (count : s.spanCount = some n) :
    s.computeNet = some (netOf ((s.spans.toList.take n).map SpanRec.resistance)) := by
  rw [State.computeNet, State.n_of_valid valid, count]
  rfl

theorem State.geometryRefusal_of_clear (idle : s.store = .idle) (stopped : s.sect ≠ .running) (empty : s.line = []) :
    s.geometryRefusal = none := by
  simp [State.geometryRefusal_eq, State.geometryChecks, firstFailing_cons, firstFailing_nil, idle, stopped, empty]

/-- Outside RUNNING the section state follows validity (R5, R148). -/
theorem State.evaluateValidity_of_stopped (stopped : s.sect ≠ .running) : s.evaluateValidity = s.settleSection := by
  have sect : s.evaluateValidity.sect = if s.valid then .stopped else .unconfigured := by
    unfold State.evaluateValidity
    cases state : s.sect <;> cases s.valid <;> first | rfl | exact absurd state stopped
  exact congrArg (fun x => ({ s with derived := s.computeNet, sect := x } : State)) sect

/-- The record that SET_SPAN writes (R3). -/
def takenSpan (length : U16) (resistance : Byte) : SpanRec :=
  ⟨max 50 (min 800 length.toNat), max 1 (min 255 resistance.toNat), true⟩

theorem setSpanRule_taken {index resistance : Byte} {length : U16} (flag : Bool) (inside : index.toNat < 16)
    (clear : s.geometryRefusal = none) :
    setSpanRule index length resistance flag s =
      (({ s with spans := s.spans.set index.toNat (takenSpan length resistance) inside } : State).evaluateValidity,
        .ack .setSpan flag (index :: bytes2 (takenSpan length resistance).length ++
          [byte (takenSpan length resistance).resistance])) := by
  have written (r : SpanRec) : s.spans.setIfInBounds index.toNat r = s.spans.set index.toNat r inside := by
    ext : 1
    simp [Vector.getElem_setIfInBounds, Vector.getElem_set]
  simp only [setSpanRule, if_neg (Nat.not_lt.2 (Nat.le_of_lt_succ inside)), clear, clamp, written]
  rfl

theorem setSpanCountRule_taken {count : Byte} (flag : Bool) (clear : s.geometryRefusal = none) :
    setSpanCountRule count flag s =
      (({ s with spanCount := some (max 4 (min 16 count.toNat)) } : State).evaluateValidity,
        .ack .setSpanCount flag [byte (max 4 (min 16 count.toNat))]) := by
  simp only [setSpanCountRule, clear, clamp]

end Geometry

/-- Settles O17: validity is that of R5, the resistances are those of the valid records, and a write that every check
passes evaluates both anew. -/
theorem geometryWriteTaken : Obligations.GeometryWriteTaken := by
  intro s
  refine ⟨s.valid_iff, State.n_of_valid, fun invalid => ⟨State.n_of_invalid invalid, ?_⟩, s.inSection_iff,
    fun n valid count most => ?_, fun hears idle stopped empty => ?_⟩
  · rw [State.computeNet, State.n_of_invalid invalid]
    rfl
  · intro rs
    have size : rs.length = n := by simp [rs, most]
    refine ⟨netOf rs, State.computeNet_of_valid valid count, rfl, size, rfl, fun i below => ?_⟩
    rw [← size] at below
    exact ⟨netOf_pAt below, netOf_qAt below⟩
  · intro settled
    have clear : ({ s with isoSeq := .none } : State).geometryRefusal = none :=
      State.geometryRefusal_of_clear idle stopped empty
    refine ⟨?_, ?_⟩
    · intro index resistance length inside l r
      have taken := setSpanRule_taken (length := length) (resistance := resistance) s.isoBusy inside clear
      rw [State.evaluateValidity_of_stopped (s := { s with isoSeq := .none, spans := _ }) stopped] at taken
      exact exec_setSpan_of_rule hears taken
    · intro count n
      have taken := setSpanCountRule_taken (count := count) s.isoBusy clear
      rw [State.evaluateValidity_of_stopped (s := { s with isoSeq := .none, spanCount := _ }) stopped] at taken
      exact exec_setSpanCount_of_rule hears taken

end Sys2Proof.Machine

namespace Sys2Proof.Machine

/-! ### The state after reset -/

theorem State.reset_ranges : State.reset.RangesHold := by
  have params := Params.inRange_default
  refine ⟨⟨⟨params, params⟩, ⟨nofun, nofun⟩, fun i => ?_⟩, fun p => ?_, fun k => ?_, nofun, nofun⟩
  · have record : State.reset.spans[i] = {} := Vector.getElem_replicate _
    have stored : State.reset.stored.spans[i] = {} := Vector.getElem_replicate _
    rw [record, stored]
    exact ⟨⟨rfl, rfl⟩, rfl, rfl⟩
  · cases p <;> exact ⟨Nat.zero_le _, Nat.zero_le _⟩
  · have record : State.reset.truck k = {} := Vector.getElem_replicate _
    rw [record]
    unfold Truck.CurrentsInRange
    decide

theorem State.reset_section : State.reset.SectionHolds := by
  have rest : State.reset.AtRest := ⟨rfl, rfl, rfl, rfl, rfl, rfl⟩
  refine (rest.settled (fun i => ?_) rfl rfl).sectionHolds rfl rfl
  by_cases small : i < 16
  · rw [State.spanState_replicate (x := .opened) rfl small]
    exact nofun
  · rw [State.spanState_beyond _ (Nat.le_of_not_lt small)]
    exact nofun

theorem State.reset_onePending : State.reset.OneRaisePending := by
  have free (k : Slot) : (State.reset.truck k).state ≠ .raisePending := by
    rw [State.truck_def, show State.reset.trucks = Vector.replicate 12 {} from rfl]
    show ((Vector.replicate 12 ({} : Truck))[k.val]).state ≠ .raisePending
    rw [Vector.getElem_replicate]
    exact nofun
  exact ⟨fun j _ atJ => absurd atJ (free j), nofun⟩

/-- Settles O55: the blocks stand empty, the configuration is invalid and every parameter is at its default. -/
theorem resetMeetsEveryPromise : Obligations.ResetMeetsEveryPromise := by
  refine ⟨State.reset_ranges, State.placesHold_of_cleared rfl rfl rfl rfl, State.reset_section, State.reset_onePending,
    rfl, ?_⟩
  show ((0xFFFF : U16) == copyCheck none (Vector.replicate 16 {}) {}) = false
  rw [neverWritten_check]
  rfl

/-! ### Passes -/

section Passes
variable {s : State} {j : Joint}

/-- A pass not yet spent ends at its blanking deadline; a wide one is handed to the line tracker (R88). -/
theorem exec_blankingDeadline_fresh {a b : Time} (passed : due (s.channel j).blanking s.now = true)
    (state : (s.channel j).state = .trailing) (fresh : (s.channel j).spent = false) (rise : (s.channel j).rise = some a)
    (fall : (s.channel j).lastFall = some b) :
    exec (.blankingDeadline j) s =
      let ended := s.setChannel j { s.channel j with state := .idle, rise := none, blanking := none, overlong := none }
      .next (if (b - a).toNat < s.params.minPass then ended else ended.takePass j.val (b - a).toNat false) := by
  have measured : width (s.channel j).rise (s.channel j).lastFall = (b - a).toNat := by rw [rise, fall]; rfl
  refine congrArg Host.Outcome.next ((if_pos ⟨passed, state⟩).trans ?_)
  rw [if_neg (by rw [fresh]; exact Bool.false_ne_true), measured]
  dsimp only
  rw [fresh]

theorem exec_blankingDeadline_spent (passed : due (s.channel j).blanking s.now = true)
    (state : (s.channel j).state = .trailing) (spent : (s.channel j).spent = true) :
    exec (.blankingDeadline j) s = .next (s.setChannel j { s.channel j with
      state := .idle, spent := false, rise := none, blanking := none }) :=
  congrArg Host.Outcome.next ((if_pos ⟨passed, state⟩).trans (if_pos spent))

/-- A completed pass is handed to the line tracker with the speed of R91. -/
theorem exec_passCompletes {i : Instr} {v : Nat} {ch : Channel} (completes : s.PassCompletes i j v ch) :
    ∃ width overlong, passSpeed s.params.shoeLength width overlong = v ∧
      exec i s = .next ((s.setChannel j ch).takePass j.val width overlong) := by
  rcases completes with ⟨rfl, passed, state, fresh, ⟨a, b, rise, fall, wide, rfl⟩, rfl⟩ | ⟨rfl, passed, state, rfl, rfl⟩ |
    ⟨rfl, passed, state, rfl, rfl⟩
  · refine ⟨(b - a).toNat, false, rfl, (exec_blankingDeadline_fresh passed state fresh rise fall).trans ?_⟩
    exact congrArg Host.Outcome.next (if_neg (Nat.not_lt.2 wide))
  all_goals
    refine ⟨width (s.channel j).rise (s.channel j).overlong, true, rfl, ?_⟩
    refine congrArg Host.Outcome.next ((if_pos passed).trans ?_)
    dsimp only
    rw [state]

theorem State.takePass_of_absent {u : State} (absent : u.n = none) (j width : Nat) (overlong : Bool) :
    u.takePass j width overlong = u := by
  rw [State.takePass, absent]

theorem State.takePass_of_beyond {u : State} {n j : Nat} (count : u.n = some n) (beyond : n < j) (width : Nat)
    (overlong : Bool) : u.takePass j width overlong = u := by
  rw [State.takePass, count]
  exact if_pos beyond

end Passes

/-- Settles O36: a pass that completes is a pass taken, which leaves the state alone outside the section. -/
theorem passWithoutEffect : Obligations.PassWithoutEffect := by
  intro s j c
  refine ⟨exec_blankingDeadline_spent, fun passed state fresh a b rise fall narrow => ?_,
    fun i v ch completes outside => ?_⟩
  · rw [exec_blankingDeadline_fresh passed state fresh rise fall]
    exact congrArg Host.Outcome.next (if_pos narrow)
  · obtain ⟨w, overlong, -, taken⟩ := exec_passCompletes completes
    rw [taken]
    rcases outside with absent | ⟨n, count, beyond⟩
    · exact congrArg Host.Outcome.next (State.takePass_of_absent (u := s.setChannel j ch) absent _ _ _)
    · exact congrArg Host.Outcome.next (State.takePass_of_beyond (u := s.setChannel j ch) count beyond _ _)

end Sys2Proof.Machine

namespace Sys2Proof.Machine

/-! ### A pass attributed to an entry -/

section Attributed
variable {s : State} {j : Joint}

/-- The record of a truck whose entry comes onto a span (R96, R112, R146). -/
def Truck.entering (x : Truck) (barred : Bool) (cut lower : Time) : Truck :=
  match x.state with
  | .raisePending =>
    if barred then { x with
      state := .lowering, throughout := false, issued := 0, raiseConfirm := none, silentHold := none, cutAck := none
      lowerConfirm := some lower }
    else { x with
      state := .drawing, throughout := false, raiseConfirm := none, silentHold := none
      cutAck := if x.issued < x.inForce then some (x.cutAck.getD cut) else none }
  | .drawing =>
    if barred then { x with
      state := .lowering, throughout := false, issued := 0, raiseConfirm := none, cutAck := none
      lowerConfirm := some lower }
    else x
  | .silent => if barred then { x with issued := 0 } else x
  | .free | .standby | .queued | .lowering => x

/-- An entry of kind `kind` has come onto span `i` (R96 items 3 and 4, R111). -/
def State.comeOnto (s : State) (i : Nat) (kind : EntryKind) : State :=
  ((s.makeContact kind).spanGained i).tellEntered i kind

theorem State.comeOnto_phantom (s : State) (i : Nat) (m : PhantomNo) (c : Nat) (x : Time) (o : Option (Slot × U16)) :
    s.comeOnto i (.phantom m c x o) = { s with
      queue := s.queue.map (QueueEntry.gained i)
      faults := if s.spanState i = SpanState.opened then s.faults else { s.faults with barredEntry := true } } := by
  show (s.spanGained i).tellEntered i (.phantom m c x o) = _
  unfold State.tellEntered
  rw [State.spanState_spanGained]
  split <;> rfl

theorem State.makeContact_truck (s : State) (k : Slot) :
    s.makeContact (.truck k) = s.setTruck k (if (s.truck k).state = .raisePending then
      (s.truck k).contacted (after s.now s.params.cutAcknowledge) else s.truck k) := by
  show (if (s.truck k).state = .raisePending then s.enterDrawing k else s) = _
  split
  · exact s.enterDrawing_eq k
  · exact (s.setTruck_truck k).symm

/-- Contact, and the lower order of a barred span, write the truck's record alone (R112, R114, R146). -/
theorem State.comeOnto_truck (s : State) (i : Nat) (k : Slot) :
    s.comeOnto i (.truck k) = { s with
      queue := s.queue.map (QueueEntry.gained i)
      faults := if s.spanState i = SpanState.opened then s.faults else { s.faults with barredEntry := true } }.setTruck k
        ((s.truck k).entering (s.spanState i != SpanState.opened) (after s.now s.params.cutAcknowledge)
          (after s.now s.params.lowerConfirm)) := by
  rw [State.comeOnto, State.makeContact_truck]
  show ((s.spanGained i).setTruck k _).tellEntered i (.truck k) = _
  unfold State.tellEntered
  rw [State.spanState_setTruck, State.spanState_spanGained]
  split
  next opened =>
    have eq : (if (s.truck k).state = .raisePending then
        (s.truck k).contacted (after s.now s.params.cutAcknowledge) else s.truck k) =
        (s.truck k).entering (s.spanState i != SpanState.opened) (after s.now s.params.cutAcknowledge)
          (after s.now s.params.lowerConfirm) := by
      rw [opened]
      cases state : (s.truck k).state <;> simp [Truck.entering, state, Truck.contacted]
    rw [eq]
    rfl
  next barred =>
    have lowered (r : Truck) : (({ s.spanGained i with faults := { s.faults with barredEntry := true } } :
        State).setTruck k r).lowerOrder k = _ := State.lowerOrder_eq _ k
    refine (lowered _).trans ?_
    rw [State.truck_setTruck_same, State.setTruck_setTruck]
    refine congrArg (State.setTruck _ k) ?_
    have isBarred : (s.spanState i != SpanState.opened) = true := by simpa using barred
    rw [isBarred]
    cases state : (s.truck k).state <;> simp [Truck.entering, state, Truck.contacted]

end Attributed

end Sys2Proof.Machine

namespace Sys2Proof.Machine

section Pass
variable {s : State} {j : Joint} {ahead behind : List Entry} {e : Entry}

/-- The line order written with an entry gone from span `i` (R84, R143). -/
def State.vacated (s : State) (line : List Entry) (i : Nat) : State := (s.putLine line).tellEmptied i

theorem State.vacated_frame (s : State) (line : List Entry) (i : Nat) :
    s.vacated line i = { s with
      line := line, phantomCount := phantomsIn line, spanStates := (s.vacated line i).spanStates } :=
  (s.putLine line).tellEmptied_frame i

theorem State.vacated_spanState (s : State) (line : List Entry) (i m : Nat) :
    (s.vacated line i).spanState m =
      if m = i ∧ s.spanState i = .pendingBar ∧ line.any (fun x => x.span == i) = false then .barred
      else s.spanState m := by
  rw [State.vacated, State.tellEmptied_spanState]
  show (if m = i ∧ line.any (fun x => x.span == i) = false ∧ s.spanState i = .pendingBar then _ else s.spanState m) = _
  simp only [and_comm (a := line.any (fun x => x.span == i) = false)]

/-- The foremost entry on the span below the joint takes the pass (R95). -/
theorem State.takePass_attributed {n : Nat} (count : s.n = some n) (inside : j.val ≤ n)
    (line : s.line = ahead ++ e :: behind) (below : e.span + 1 = j.val) (foremost : ∀ x ∈ ahead, x.span + 1 ≠ j.val)
    (width : Nat) (overlong : Bool) :
    s.takePass j.val width overlong =
      if j.val = n then s.leaveWire e else s.moveUp e (passSpeed s.params.shoeLength width overlong) := by
  have found : s.line.find? (fun x => x.span == j.val - 1) = some e := by
    rw [line, List.find?_append, List.find?_eq_none.2 fun x mem => by
      have other := foremost x mem
      simp only [beq_iff_eq]
      omega]
    simp [← below]
  have positive : j.val ≠ 0 := by omega
  rw [State.takePass, count]
  simp only [if_neg (Nat.not_lt.2 inside), if_neg positive, found]

theorem State.leaveWire_eq (line : s.line = ahead ++ e :: behind) (foremost : ∀ x ∈ ahead, x.span ≠ e.span) :
    s.leaveWire e = match e.kind with
      | .truck k => (s.vacated (ahead ++ behind) e.span).enterStandby k none
      | .phantom _ _ _ _ => s.vacated (ahead ++ behind) e.span := by
  have left : updateForemost e.span (fun _ => none) s.line = ahead ++ behind := by
    rw [line, updateForemost_split _ e behind foremost]
    simp
  rw [State.leaveWire, left]
  rfl

theorem State.moveUp_comeOnto (line : s.line = ahead ++ e :: behind) (foremost : ∀ x ∈ ahead, x.span ≠ e.span) (v : Nat) :
    s.moveUp e v = (s.vacated (ahead ++ s.movedEntry e v :: behind) e.span).comeOnto (e.span + 1) e.kind := by
  rw [State.moveUp_eq line foremost, State.tellEmptied_makeContact]
  rfl

end Pass

theorem staleInterval_eq (len v margin : Nat) :
    staleInterval len v margin = (ceilDiv (len * 1000000) v * 3 + 1) / 2 + margin := by
  have two (x : Nat) : ceilDiv x 2 = (x + 1) / 2 := rfl
  rw [staleInterval, two]

/-- The stale interval of R92, as the statements write it. -/
theorem State.staleAfter_eq (s : State) (i v : Nat) :
    s.staleAfter i v = staleInterval (s.spanRec i).length v s.params.staleMargin := by
  rw [staleInterval_eq, ceilDiv]
  rfl

/-- The entry of a moved truck or phantom, tracked afresh on the span above (R96 item 2). -/
theorem State.movedEntry_eq (s : State) (e : Entry) (v : Nat) :
    s.movedEntry e v = { e with
      span := e.span + 1, conf := .known, speed := some v, stale := some (s.staleAfter (e.span + 1) v)
      nextJoint := some (after s.now (s.staleAfter (e.span + 1) v)), lost := none } := by
  rw [State.staleAfter_eq]
  rfl

/-- Settles O37: the entry gone from its span first, then its arrival on the span above, or its truck's STANDBY at the end
of the wire. -/
theorem passMovesForemostEntry : Obligations.PassMovesForemostEntry := by
  intro s i j v n ch ahead behind e completes count inside place below foremost left emptied barred moved line
  obtain ⟨w, overlong, speed, taken⟩ := exec_passCompletes completes
  have others : ∀ x ∈ ahead, x.span ≠ e.span := fun x mem => by
    have other := foremost x mem
    omega
  let u : State := s.setChannel j ch
  rw [State.takePass_attributed (s := u) count inside place below foremost] at taken
  by_cases last : j.val = n
  · rw [if_pos last, State.leaveWire_eq (s := u) place others] at taken
    have states := u.vacated_spanState left e.span
    have frame := u.vacated_frame left e.span
    generalize u.vacated left e.span = b at *
    have lineIs : line = left := if_pos last
    have notBelow : ¬j.val < n := fun less => absurd last (Nat.ne_of_lt less)
    rw [lineIs, if_neg notBelow, if_neg fun both => notBelow both.1]
    have record (k : Slot) : b.truck k = s.truck k := by rw [frame]; rfl
    cases kind : e.kind with
    | phantom p c x o =>
      rw [kind] at taken
      exact ⟨b, taken, states, fun m _ => record m, nofun,
        congrArg (fun y : State => ({ y with trucks := b.trucks } : State)) frame⟩
    | truck k =>
      rw [kind] at taken
      refine ⟨b.enterStandby k none, taken, states, fun m other => ?_, fun m own => ?_,
        congrArg (fun y : State => ({ y with trucks := (b.enterStandby k none).trucks } : State)) frame⟩
      · exact (State.truck_setTruck_other _ (fun same => other (congrArg EntryKind.truck same.symm)) _).trans (record m)
      · obtain rfl := EntryKind.truck.inj own
        intro x
        rw [if_pos last, State.enterStandby_eq, State.truck_setTruck_same, record, frame]
        rfl
  · have less : j.val < n := Nat.lt_of_le_of_ne inside last
    rw [if_neg last, State.moveUp_comeOnto (s := u) place others] at taken
    have movedIs : u.movedEntry e (passSpeed u.params.shoeLength w overlong) = moved := by
      rw [show passSpeed u.params.shoeLength w overlong = v from speed, State.movedEntry_eq, below]
      rfl
    rw [movedIs, below] at taken
    have states := u.vacated_spanState (ahead ++ moved :: behind) e.span
    have frame := u.vacated_frame (ahead ++ moved :: behind) e.span
    generalize u.vacated (ahead ++ moved :: behind) e.span = b at *
    have lineIs : line = ahead ++ moved :: behind := if_neg last
    have onSpan : (ahead ++ moved :: behind).any (fun x => x.span == e.span) = left.any fun x => x.span == e.span := by
      have other : (moved.span == e.span) = false := by
        rw [beq_eq_false_iff_ne]
        show j.val ≠ e.span
        omega
      simp [left, other]
    rw [onSpan] at states
    have record (k : Slot) : b.truck k = s.truck k := by rw [frame]; rfl
    have above : b.spanState j.val = s.spanState j.val := by
      rw [states, if_neg]
      · rfl
      · exact fun both => absurd both.1 (by omega)
    have queue : b.queue.map (QueueEntry.gained j.val) =
        s.queue.map fun q => if q.span = j.val then { q with altered := true } else q := by
      rw [frame]
      rfl
    have faults : (if s.spanState j.val = SpanState.opened then b.faults else { b.faults with barredEntry := true }) =
        if j.val < n ∧ barred then { s.faults with barredEntry := true } else s.faults := by
      rw [show b.faults = s.faults by rw [frame]; rfl]
      by_cases opened : s.spanState j.val = .opened
      · rw [if_pos opened, if_neg fun both => both.2 opened]
      · rw [if_neg opened, if_pos ⟨less, opened⟩]
    have times : b.now = s.now ∧ b.params = s.params := by
      rw [frame]
      exact ⟨rfl, rfl⟩
    have framed (trucks : Vector Truck 12) (q : List QueueEntry) (f : FaultFlags) :
        ({ b with trucks := trucks, queue := q, faults := f } : State) = { u with
          line := ahead ++ moved :: behind, phantomCount := phantomsIn (ahead ++ moved :: behind)
          spanStates := b.spanStates, trucks := trucks, queue := q, faults := f } :=
      congrArg (fun y : State => ({ y with trucks := trucks, queue := q, faults := f } : State)) frame
    rw [lineIs, if_pos less]
    cases kind : e.kind with
    | phantom p c x o =>
      rw [kind, State.comeOnto_phantom, above, queue, faults] at taken
      exact ⟨_, taken, states, fun m _ => record m, nofun, framed _ _ _⟩
    | truck k =>
      rw [kind, State.comeOnto_truck, above, queue, faults] at taken
      generalize entered : (b.truck k).entering _ _ _ = r at taken
      rw [times.1, times.2, record] at entered
      refine ⟨_, taken, states, fun m other => ?_, fun m own => ?_, framed (b.setTruck k r).trucks _ _⟩
      · exact (State.truck_setTruck_other _ (fun same => other (congrArg EntryKind.truck same.symm)) _).trans (record m)
      · obtain rfl := EntryKind.truck.inj own
        intro x
        rw [State.truck_setTruck_same, if_neg last, ← entered]
        cases state : (s.truck k).state <;> simp only [Truck.entering, state, x, barred, bne_iff_ne]

end Sys2Proof.Machine

namespace Sys2Proof.Machine

/-! ### A pass that no entry takes -/

section Unmatched
variable {s : State} {j : Joint}

theorem State.takePass_unmatched {n : Nat} (count : s.n = some n) (inside : j.val ≤ n)
    (alone : j.val = 0 ∨ ∀ x ∈ s.line, x.span + 1 ≠ j.val) (width : Nat) (overlong : Bool) :
    s.takePass j.val width overlong = s.unmatched n j.val (passSpeed s.params.shoeLength width overlong) := by
  have nobody : (if j.val = 0 then none else s.line.find? fun e => e.span == j.val - 1) = none := by
    rcases alone with zero | none
    · exact if_pos zero
    · split
      · rfl
      · refine List.find?_eq_none.2 fun x mem => ?_
        have other := none x mem
        simp only [beq_iff_eq]
        omega
  rw [State.takePass, count]
  simp only [if_neg (Nat.not_lt.2 inside), nobody]

/-- The phantom of R82, tracked on its span. -/
def State.phantomAt (s : State) (m : PhantomNo) (i v : Nat) : Entry :=
  { kind := .phantom m s.params.phantomCurrent (after s.now (s.params.phantomHold * 1000)) none
    span := i, conf := .known, speed := some v, stale := some (s.staleAfter i v)
    nextJoint := some (after s.now (s.staleAfter i v)), lost := none }

theorem State.createPhantom_room {m : PhantomNo} (room : phantomsIn s.line < 4)
    (unused : ∀ x ∈ s.line, x.isPhantomNo m = false) (below : ∀ p < m, ∃ x ∈ s.line, x.isPhantomNo p = true) (i v : Nat) :
    s.createPhantom i v = { s with
      line := s.line.takeWhile (fun x => i ≤ x.span) ++ s.phantomAt m i v :: s.line.dropWhile fun x => i ≤ x.span
      phantomCount := phantomsIn s.line + 1, queue := s.queue.map (QueueEntry.gained i)
      faults := if s.spanState i = SpanState.opened then s.faults else { s.faults with barredEntry := true } } := by
  let kind : EntryKind := .phantom m s.params.phantomCurrent (after s.now (s.params.phantomHold * 1000)) none
  have placed : s.track { kind := kind, span := i, speed := some v } v s.now = s.phantomAt m i v := by
    rw [State.phantomAt, State.staleAfter_eq]
    rfl
  have line : insertEntry (s.phantomAt m i v) s.line =
      s.line.takeWhile (fun x => i ≤ x.span) ++ s.phantomAt m i v :: s.line.dropWhile fun x => i ≤ x.span :=
    insertEntry_eq _ _
  have number : phantomsIn (insertEntry (s.phantomAt m i v) s.line) = phantomsIn s.line + 1 := by
    rw [phantomsIn, countP_insertEntry]
    rfl
  rw [State.createPhantom, if_pos room, lowestFreePhantom_eq unused below]
  refine Eq.trans ?_ ((State.comeOnto_phantom (s.putLine (insertEntry (s.phantomAt m i v) s.line)) i m
    s.params.phantomCurrent (after s.now (s.params.phantomHold * 1000)) none).trans ?_)
  · dsimp only
    rw [placed]
    rfl
  · rw [State.putLine, number, line]
    rfl

theorem State.createPhantom_full (full : 4 ≤ phantomsIn s.line) (i v : Nat) : s.createPhantom i v = s.overflowed :=
  if_neg (Nat.not_lt.2 full)

end Unmatched

/-- Settles O38: the contact is flagged, and the phantom placed, or its lack of room flagged, on the span of R97. -/
theorem unmatchedPassMakesPhantom : Obligations.UnmatchedPassMakesPhantom := by
  intro s i j v n ch completes count _ inside alone at'
  obtain ⟨w, overlong, speed, taken⟩ := exec_passCompletes completes
  rw [State.takePass_unmatched (s := s.setChannel j ch) count inside alone, State.unmatched,
    show passSpeed (s.setChannel j ch).params.shoeLength w overlong = v from speed] at taken
  constructor
  · intro m room unused below stale placed
    let u : State :=
      (s.setChannel j ch).setFaults { (s.setChannel j ch).faults with unauthorisedContact := true }
    have made := State.createPhantom_room (s := u) room unused below at' v
    have flag : (if s.spanState at' = SpanState.opened then u.faults else { u.faults with barredEntry := true }) =
        { s.faults with
          unauthorisedContact := true, barredEntry := s.faults.barredEntry || s.spanState at' != .opened } := by
      by_cases opened : s.spanState at' = .opened <;> simp [opened, u]
    rw [show u.spanState at' = s.spanState at' from rfl, flag] at made
    exact taken.trans (congrArg Host.Outcome.next made)
  · intro full
    exact taken.trans (congrArg Host.Outcome.next (State.createPhantom_full (s :=
      (s.setChannel j ch).setFaults { (s.setChannel j ch).faults with unauthorisedContact := true }) full at' v))

end Sys2Proof.Machine

namespace Sys2Proof.Machine

/-! ### The snapshot -/

theorem State.snapEntry_eq (s : State) (e : Entry) :
    s.snapEntry e = {
      kind := match e.kind with
        | .truck k => .truck k (s.truck k).fleet (s.truck k).state (s.truck k).request (s.truck k).iMin
            (max (s.truck k).issued (s.truck k).inForce)
        | .phantom n c _ _ => .phantom n c
      span := e.span, conf := e.conf, modelSpan := modelSpan s.feedMode s.derived e.conf e.span } := by
  unfold State.snapEntry
  cases e.kind <;> rfl

theorem State.snapHead_eq (s : State) :
    s.snapHead = s.queue.head?.map (fun e => {
      slot := e.slot, fleet := (s.truck e.slot).fleet, span := e.span, request := (s.truck e.slot).request
      iMin := (s.truck e.slot).iMin, spanOpen := s.spanState e.span == .opened, spanOccupied := s.occupied e.span }) := by
  unfold State.snapHead
  cases s.queue.head? with
  | none => rfl
  | some e => simp [bne]

/-- Settles O43: the snapshot reads the state as it stands, and beside it only the marks of a commit's checks change. -/
theorem cycleTakesSnapshot : Obligations.CycleTakesSnapshot := by
  intro s d cycle passed running
  have taken : exec .cycleDeadline s = .next { s.markSnapshot with
      inFlight := some s.snapshot, cycle := s.cycle.map fun d => after d s.params.cyclePeriod } :=
    congrArg Host.Outcome.next (if_pos ⟨passed, running⟩)
  obtain ⟨marks, frame⟩ := s.markSnapshot_spec
  generalize s.markSnapshot = t at taken marks frame
  refine ⟨s.snapshot, t.trucks, ?_, fun k => ?_, rfl, rfl, rfl, rfl, rfl, rfl, rfl, rfl, rfl,
    List.map_congr_left fun e _ => s.snapEntry_eq e, s.snapHead_eq⟩
  · rw [taken, cycle]
    exact congrArg (fun u : State => Host.Outcome.next { u with
      inFlight := some s.snapshot, cycle := some (after d s.params.cyclePeriod) }) frame
  · rw [← State.truck_def, marks k]
    cases (s.truck k).state <;> rfl

end Sys2Proof.Machine

namespace Sys2Proof.Machine

/-! ### The results of a commit, truck by truck -/

section Results
variable {s : State} {k : Slot}

/-- The result for one DRAWING truck (R132). -/
theorem State.applyTarget_record (s : State) (k : Slot) (fleet : Option U16) (target : Nat) :
    (s.applyTarget k fleet target).truck k =
      if (s.truck k).fleet = fleet ∧ (s.truck k).state = .drawing ∧ (s.truck k).throughout = true then
        if target = 0 then { s.truck k with
          state := .lowering, throughout := false, issued := 0, raiseConfirm := none, cutAck := none
          lowerConfirm := some (after s.now s.params.lowerConfirm) }
        else { s.truck k with
          issued := target
          cutAck := if target < (s.truck k).inForce then
              some ((s.truck k).cutAck.getD (after s.now s.params.cutAcknowledge))
            else none }
      else s.truck k := by
  dsimp only [State.applyTarget]
  split
  next holds =>
    split
    · rw [State.lowerOrder_of_up (.inr holds.2.1), State.truck_setTruck_same]
    · simp [State.evaluateCut, holds.2.1]
  next => rfl

/-- A result that is not taken leaves the record. -/
theorem State.applyTarget_untaken {fleet : Option U16}
    (idle : ¬((s.truck k).fleet = fleet ∧ (s.truck k).state = .drawing ∧ (s.truck k).throughout = true)) (target : Nat) :
    s.applyTarget k fleet target = s := if_neg idle

/-- A truck that no result of the list is taken for. -/
theorem State.applyResults_untouched (l : List (SnapEntry × Nat))
    (idle : ∀ r ∈ l, ∀ fleet req i y, r.1.kind = .truck k fleet .drawing req i y →
      ¬((s.truck k).fleet = fleet ∧ (s.truck k).state = .drawing ∧ (s.truck k).throughout = true)) :
    (l.foldl State.applyResult s).truck k = s.truck k := by
  refine List.foldlRecOn _ _ (motive := fun t : State => t.truck k = s.truck k) rfl fun t same r mem => ?_
  unfold State.applyResult
  split
  next j fleet st req i y kind =>
    split
    next drawing =>
      subst drawing
      by_cases own : j = k
      · subst own
        rw [State.applyTarget_untaken (by rw [same]; exact idle r mem fleet req i y kind), same]
      · have writes := t.applyTarget_writes j fleet r.2
        rw [State.WritesTruck] at writes
        rw [writes, State.truck_setTruck_other _ (Ne.symm own), same]
    next => exact same
  next => exact same

theorem SnapEntry.who_of_truck {e : SnapEntry} {f : Option U16} {st : TruckState} {r m y : Nat}
    (kind : e.kind = .truck k f st r m y) : e.who = .truck k := by
  rw [SnapEntry.who, kind]

/-- A truck named once: its result alone is taken for it. -/
theorem State.applyResults_own {l : List (SnapEntry × Nat)} (once : l.Pairwise fun a b => a.1.who ≠ b.1.who)
    {r : SnapEntry × Nat} (mem : r ∈ l) {f : Option U16} {req i y : Nat} (kind : r.1.kind = .truck k f .drawing req i y) :
    (l.foldl State.applyResult s).truck k = (s.applyTarget k f r.2).truck k := by
  obtain ⟨ahead, behind, rfl⟩ := List.append_of_mem mem
  obtain ⟨-, tail, across⟩ := List.pairwise_append.1 once
  have own := SnapEntry.who_of_truck kind
  have before : (ahead.foldl State.applyResult s).truck k = s.truck k := by
    refine State.applyResults_untouched ahead fun a memA fleet _ _ _ kindA => ?_
    exact absurd ((SnapEntry.who_of_truck kindA).trans own.symm) (across a memA r List.mem_cons_self)
  have frame := (s.applyResults_takes ahead).2
  have step (u : State) : u.applyResult r = u.applyTarget k f r.2 := by
    rw [State.applyResult, kind]
    rfl
  rw [List.foldl_append, List.foldl_cons, step]
  generalize ahead.foldl State.applyResult s = u at before frame
  rw [State.applyResults_untouched behind fun a memA fleet _ _ _ kindA => absurd
      (own.trans (SnapEntry.who_of_truck kindA).symm) ((List.pairwise_cons.1 tail).1 a memA),
    State.applyTarget_record, State.applyTarget_record, before, frame]

theorem State.resultsOf_untouched (x : Snapshot)
    (idle : ∀ e ∈ x.entries, ∀ fleet req i y, e.kind = .truck k fleet .drawing req i y →
      ¬((s.truck k).fleet = fleet ∧ (s.truck k).state = .drawing ∧ (s.truck k).throughout = true)) :
    (s.resultsOf x).truck k = s.truck k :=
  State.applyResults_untouched (s := { s with inFlight := none }) _ fun r mem =>
    idle r.1 (List.of_mem_zip mem).1

/-- No result is taken for a truck that is not DRAWING. -/
theorem State.resultsOf_not_drawing (x : Snapshot) (other : (s.truck k).state ≠ .drawing) :
    (s.resultsOf x).truck k = s.truck k :=
  State.resultsOf_untouched x fun _ _ _ _ _ _ _ taken => other taken.2.1

/-- No result queues a truck. -/
theorem State.resultsOf_queued (x : Snapshot) (queued : ((s.resultsOf x).truck k).state = .queued) :
    (s.truck k).state = .queued := by
  refine (({ s with inFlight := none } : State).applyResults_records
    (R := fun t u => u.state = .queued → t.state = .queued) (fun _ => id) (fun _ _ _ a b => a ∘ b)
    (List.zip x.entries x.heldOrTargets) fun u r _ k fleet _ _ _ _ => ?_).1 k queued
  rw [State.applyTarget_record]
  split
  · split
    · exact nofun
    · exact id
  · exact id

end Results

end Sys2Proof.Machine

namespace Sys2Proof.Machine

/-! ### The grant of a commit -/

section Grant
variable {s : State} {x : Snapshot} {h : SnapHead} {a : Nat}

/-- The table and the shares leave the truck table and the places. -/
theorem State.commitOf_places (s : State) (x : Snapshot) :
    (s.commitOf x).queue = (s.afterGrant x).queue ∧ (s.commitOf x).line = (s.afterGrant x).line ∧
      (s.commitOf x).spacing = (s.afterGrant x).spacing ∧ (s.commitOf x).trucks = (s.afterGrant x).trucks ∧
      (s.commitOf x).grants = x.table s.now (s.grantedBy x) := by
  rw [State.commitOf_eq]
  exact ⟨rfl, rfl, rfl, rfl, rfl⟩

theorem State.commitOf_truck (s : State) (x : Snapshot) (k : Slot) :
    (s.commitOf x).truck k = (s.afterGrant x).truck k := by
  rw [State.truck_def, State.truck_def, (s.commitOf_places x).2.2.2.1]

theorem exec_commit_running (computing : s.inFlight = some x) (running : s.sect = .running) :
    exec .commit s = .next (s.commitOf x) := by
  show execCommit s = _
  simp only [execCommit, computing, if_pos running]

/-- The conditions of R111 and R133. -/
theorem State.grantApplies_iff (s : State) (k : Slot) (fleet : Option U16) (span : Nat) :
    s.grantApplies k fleet span = true ↔
      (s.truck k).state = .queued ∧ (s.truck k).fleet = fleet ∧ s.queue.head? = some ⟨k, span, false⟩ ∧
        s.spanState span = .opened ∧ s.occupied span = false := by
  unfold State.grantApplies
  cases s.queue with
  | nil => simp
  | cons e rest =>
    obtain ⟨slot, at', altered⟩ := e
    simp [State.barredSpan]
    exact ⟨fun ⟨⟨⟨⟨queued, own⟩, ⟨slot, fresh⟩, span⟩, opened⟩, free⟩ => ⟨queued, own, ⟨slot, span, fresh⟩, opened, free⟩,
      fun ⟨queued, own, ⟨slot, span, fresh⟩, opened, free⟩ => ⟨⟨⟨⟨queued, own⟩, ⟨slot, fresh⟩, span⟩, opened⟩, free⟩⟩

/-- They may be read before the results are handed on: no result queues a truck or writes a queued one. -/
theorem State.grantApplies_resultsOf (s : State) (x : Snapshot) (k : Slot) (fleet : Option U16) (span : Nat) :
    (s.resultsOf x).grantApplies k fleet span = s.grantApplies k fleet span := by
  have frame := (s.resultsOf_takes x).2
  have queue : (s.resultsOf x).queue = s.queue := by rw [frame]
  have opened : (s.resultsOf x).spanState span = s.spanState span := by rw [frame]; rfl
  have occupied : (s.resultsOf x).occupied span = s.occupied span := by rw [frame]; rfl
  rw [Bool.eq_iff_iff, State.grantApplies_iff, State.grantApplies_iff, queue, opened, occupied]
  constructor
  · rintro ⟨queued, rest⟩
    have was := State.resultsOf_queued x queued
    rw [State.resultsOf_not_drawing x (by rw [was]; exact nofun)] at rest
    exact ⟨was, rest⟩
  · rintro ⟨queued, rest⟩
    rw [State.resultsOf_not_drawing x (by rw [queued]; exact nofun)]
    exact ⟨queued, rest⟩

/-- The grant as the table records it (R131). -/
theorem Snapshot.table_grant (now : Time) (applied : Bool) :
    (x.table now applied).grant = x.grant.map fun g => ⟨g.1.slot, g.1.span, g.2, applied⟩ := rfl

/-- The state after a commit whose grant is discarded. -/
theorem State.commitOf_keeps (discarded : s.afterGrant x = s.resultsOf x) :
    (s.commitOf x).queue = s.queue ∧ (s.commitOf x).line = s.line ∧ (s.commitOf x).spacing = s.spacing ∧
      ∀ k, (s.truck k).state ≠ .drawing → (s.commitOf x).truck k = s.truck k := by
  obtain ⟨queue, line, spacing, -⟩ := s.commitOf_places x
  have frame := (s.resultsOf_takes x).2
  refine ⟨queue.trans ?_, line.trans ?_, spacing.trans ?_, fun k other => ?_⟩
  · rw [discarded, frame]
  · rw [discarded, frame]
  · rw [discarded, frame]
  · rw [State.commitOf_truck, discarded, State.resultsOf_not_drawing x other]

theorem State.commitOf_grant (s : State) (x : Snapshot) :
    (s.commitOf x).grants.grant = x.grant.map fun g => ⟨g.1.slot, g.1.span, g.2, s.grantedBy x⟩ := by
  obtain ⟨-, -, -, -, grants⟩ := s.commitOf_places x
  rw [grants, Snapshot.table_grant]

theorem State.grantedBy_eq (grant : x.grant = some (h, a)) :
    s.grantedBy x = s.grantApplies h.slot h.fleet h.span := by
  rw [State.grantedBy, grant]
  exact s.grantApplies_resultsOf x h.slot h.fleet h.span

/-- The entry that a grant places (R111). -/
def State.grantedEntry (s : State) (k : Slot) (span : Nat) : Entry :=
  { kind := .truck k, span := span, conf := .known, speed := none, stale := some (s.staleAfter span 500)
    nextJoint := some (after s.now (s.staleAfter span 500)), lost := none }

theorem State.applyGrant_line (s : State) (k : Slot) (span amount : Nat) :
    (s.applyGrant k span amount).line = s.line.takeWhile (fun e => span ≤ e.span) ++
      s.grantedEntry k span :: s.line.dropWhile fun e => span ≤ e.span := by
  have placed : s.track { kind := .truck k, span := span } 500 s.now = s.grantedEntry k span := by
    rw [State.grantedEntry, State.staleAfter_eq]
    rfl
  show insertEntry (s.track { kind := .truck k, span := span } 500 s.now) s.line = _
  rw [placed]
  exact insertEntry_eq _ _

theorem State.applyGrant_truck (s : State) (k j : Slot) (span amount : Nat) :
    (s.applyGrant k span amount).truck j = if j = k then { s.truck k with
        state := .raisePending, throughout := false, issued := amount, queueWait := none
        raiseConfirm := some (after s.now s.params.raiseConfirm), silence := some (after s.now s.params.silence) }
      else s.truck j := by
  rw [State.applyGrant, State.truck_setTruck]
  rfl

end Grant

/-- Settles O45: the grant's conditions read the queue and the trucks that are not DRAWING, which no result writes. -/
theorem raiseGrantAppliedOrDiscarded : Obligations.RaiseGrantAppliedOrDiscarded := by
  intro s x computing running keeps
  have taken := exec_commit_running computing running
  refine ⟨fun none => ⟨_, taken, ?_, ?_⟩, ?_⟩
  · rw [State.commitOf_grant, none]
    rfl
  · exact State.commitOf_keeps (by rw [State.afterGrant, none])
  intro h a grant k u holds stale placed
  have applies : s.grantedBy x = true ↔ holds := by
    rw [State.grantedBy_eq grant, State.grantApplies_iff]
  constructor
  · intro holding
    have granted : s.grantedBy x = true := applies.2 holding
    obtain ⟨queued, -⟩ := holding
    obtain ⟨queue, line, spacing, -⟩ := s.commitOf_places x
    have after : s.afterGrant x = (s.resultsOf x).applyGrant k h.span a := by
      rw [State.afterGrant, grant]
      exact if_pos granted
    have frame := (s.resultsOf_takes x).2
    have record (j : Slot) (other : (s.truck j).state ≠ .drawing) : (s.resultsOf x).truck j = s.truck j :=
      State.resultsOf_not_drawing x other
    refine ⟨_, taken, ?_, queue.trans ?_, spacing.trans ?_, line.trans ?_, ?_, fun j ne other => ?_⟩
    · rw [State.commitOf_grant, grant, granted]
      rfl
    · rw [after, frame]
      rfl
    · rw [after, frame]
      rfl
    · rw [after, State.applyGrant_line, frame]
      rfl
    · rw [State.commitOf_truck, after, State.applyGrant_truck, if_pos rfl, record k (by rw [queued]; exact nofun), frame]
    · rw [State.commitOf_truck, after, State.applyGrant_truck, if_neg ne, record j other]
  · intro failing
    have refused : s.grantedBy x = false := Bool.eq_false_iff.2 (mt applies.1 failing)
    refine ⟨_, taken, ?_, State.commitOf_keeps ?_⟩
    · rw [State.commitOf_grant, grant, refused]
      rfl
    · rw [State.afterGrant, grant, refused]
      rfl

end Sys2Proof.Machine

namespace Sys2Proof.Machine

/-! ### The committed grant table -/

section Table
variable {s : State} {x : Snapshot} {k : Slot}

theorem Snapshot.mem_breachedSlots :
    k ∈ x.breachedSlots ↔ ∃ e ∈ x.entries, e.who = .truck k ∧ meetsFloor x.heldSet e.modelSpan = false := by
  rw [Snapshot.breachedSlots, List.mem_filterMap]
  refine exists_congr fun e => and_congr_right fun _ => ?_
  cases kind : e.kind with
  | phantom n c => simp [SnapEntry.who, kind]
  | truck j f st r m y => cases meets : meetsFloor x.heldSet e.modelSpan <;> simp [SnapEntry.who, kind]

theorem Snapshot.mem_table_breachSlots (now : Time) (applied : Bool) :
    k ∈ (x.table now applied).breachSlots ↔ x.outcome = .breached ∧
      ∃ e ∈ x.entries, e.who = .truck k ∧ meetsFloor x.heldSet e.modelSpan = false := by
  rw [← Snapshot.mem_breachedSlots]
  show k ∈ (if x.outcome = .breached then x.breachedSlots else []) ↔ _
  split
  next breached => simp [breached]
  next other => simp [other]

theorem Snapshot.grantEntries_length (x : Snapshot) : x.grantEntries.length = x.entries.length := by
  simp [Snapshot.grantEntries, heldOrTargets_length, charges_length]

theorem Snapshot.grantEntries_getElem? {i : Nat} {e : SnapEntry} {c d : Nat} (place : x.entries[i]? = some e)
    (given : x.heldOrTargets[i]? = some c) (charge : x.charges[i]? = some d) :
    x.grantEntries[i]? = some
      { who := e.who, span := e.span, modelSpan := e.modelSpan, heldOrTarget := c, charge := d
        estimate := if e.isTruck then estimateAt x.committedLoad e.modelSpan else 0 } := by
  have zipped : (List.zip x.heldOrTargets x.charges)[i]? = some (c, d) := by
    rw [List.zip, List.getElem?_zipWith, given, charge]
  rw [Snapshot.grantEntries, List.getElem?_zipWith, place, zipped]

theorem Snapshot.table_eq (x : Snapshot) (now : Time) (applied : Bool) :
    x.table now applied =
      { snapTime := some x.time, commitTime := some now, outcome := some x.outcome
        breachA := x.outcome == .breached && !meetsCapA x.heldSet
        breachB := x.outcome == .breached && !meetsCapB x.heldSet
        breachSlots := (x.table now applied).breachSlots
        mode := x.mode, vFeed := x.vFeed, vMin := x.vMin, capA := x.capA, capB := x.capB
        entries := x.grantEntries, grant := x.grant.map fun g => ⟨g.1.slot, g.1.span, g.2, applied⟩
        shareA := (shares x.committedLoad).1, shareB := (shares x.committedLoad).2 } := by
  have breach (b : Bool) : decide (x.outcome = .breached ∧ (!b) = true) = (x.outcome == .breached && !b) := by
    cases x.outcome <;> cases b <;> rfl
  unfold Snapshot.table
  rw [breach, breach]

end Table

/-! ### The commit's other results -/

section Commit
variable {s : State} {x : Snapshot} {k : Slot}

/-- A truck that is not the grant's has the record that the results leave. -/
theorem State.afterGrant_truck (unqueued : ((s.resultsOf x).truck k).state ≠ .queued) :
    (s.afterGrant x).truck k = (s.resultsOf x).truck k := by
  rcases s.afterGrant_cases x with ⟨h, a, -, applies, -, eq⟩ | ⟨-, eq⟩ <;> rw [eq]
  rw [State.applyGrant_truck, if_neg]
  rintro rfl
  exact unqueued ((State.grantApplies_iff _ _ _ _).1 applies).1

/-- The result of a truck that was DRAWING throughout (R132). -/
theorem State.resultsOf_own (once : x.entries.Pairwise fun a b => a.who ≠ b.who) {i : Nat} {e : SnapEntry} {c : Nat}
    (place : x.entries[i]? = some e) (given : x.heldOrTargets[i]? = some c) {f : Option U16} {r m y : Nat}
    (kind : e.kind = .truck k f .drawing r m y) :
    (s.resultsOf x).truck k = (s.applyTarget k f c).truck k := by
  have zipped : (List.zip x.entries x.heldOrTargets)[i]? = some (e, c) := by
    rw [List.zip, List.getElem?_zipWith, place, given]
  have entries : (List.zip x.entries x.heldOrTargets).map Prod.fst = x.entries :=
    List.map_fst_zip (Nat.le_of_eq (heldOrTargets_length x).symm)
  have apart : ((List.zip x.entries x.heldOrTargets).map Prod.fst).Pairwise fun a b => a.who ≠ b.who := by
    rw [entries]
    exact once
  rw [List.pairwise_map] at apart
  refine (State.applyResults_own (s := { s with inFlight := none }) apart (List.mem_of_getElem? zipped) kind).trans ?_
  rw [State.applyTarget_record, State.applyTarget_record]
  rfl

theorem State.commitOf_frame (s : State) (x : Snapshot) :
    s.commitOf x = { s with
      inFlight := none, grants := (s.commitOf x).grants, trucks := (s.commitOf x).trucks
      feedA := (s.commitOf x).feedA, feedB := (s.commitOf x).feedB, shareTime := (s.commitOf x).shareTime
      queue := (s.commitOf x).queue, line := (s.commitOf x).line, phantomCount := (s.commitOf x).phantomCount
      spacing := (s.commitOf x).spacing } := by
  have frame := (s.resultsOf_takes x).2
  have granted : s.afterGrant x = { s with
      inFlight := none, trucks := (s.afterGrant x).trucks, queue := (s.afterGrant x).queue
      line := (s.afterGrant x).line, phantomCount := (s.afterGrant x).phantomCount
      spacing := (s.afterGrant x).spacing } := by
    rcases s.afterGrant_cases x with ⟨h, a, -, -, -, eq⟩ | ⟨-, eq⟩
    · rw [eq]
      generalize s.resultsOf x = u at frame
      rw [frame]
      rfl
    · rw [eq]
      generalize s.resultsOf x = u at frame
      rw [frame]
  rw [State.commitOf_eq]
  generalize s.afterGrant x = u at granted
  rw [granted]
  rfl

theorem State.commitOf_side (s : State) (x : Snapshot) (f : Feed) :
    (s.commitOf x).side f = (s.side f).takeShare (match f with
      | .a => (shares x.committedLoad).1
      | .b => (shares x.committedLoad).2) := by
  have sides : (s.afterGrant x).feedA = s.feedA ∧ (s.afterGrant x).feedB = s.feedB := by
    have frame := (s.resultsOf_takes x).2
    rcases s.afterGrant_cases x with ⟨h, a, -, -, -, eq⟩ | ⟨-, eq⟩ <;> rw [eq] <;>
      (generalize s.resultsOf x = u at frame; rw [frame]; exact ⟨rfl, rfl⟩)
  rw [State.commitOf_eq]
  cases f
  · exact congrArg (FeedSide.takeShare · _) sides.1
  · exact congrArg (FeedSide.takeShare · _) sides.2

theorem State.commitOf_shareTime (s : State) (x : Snapshot) : (s.commitOf x).shareTime = some s.now := by
  have now : (s.afterGrant x).now = s.now := by
    have frame := (s.resultsOf_takes x).2
    rcases s.afterGrant_cases x with ⟨h, a, -, -, -, eq⟩ | ⟨-, eq⟩
    · rw [eq]
      generalize s.resultsOf x = u at frame
      rw [frame]
      rfl
    · rw [eq]
      generalize s.resultsOf x = u at frame
      rw [frame]
  rw [State.commitOf_eq]
  exact congrArg some now

end Commit

/-- Settles O44: the table is the record of the computation, each truck named once takes its own result, and the grant
writes a QUEUED truck alone. -/
theorem commitHandsResultsOn : Obligations.CommitHandsResultsOn := by
  intro s x computing
  refine ⟨fun stopped => ?_, fun running once => ?_⟩
  · show execCommit s = _
    simp only [execCommit, computing, if_neg stopped]
  intro load share
  obtain ⟨-, -, -, -, grants⟩ := s.commitOf_places x
  have unqueued (k : Slot) (notQueued : (s.truck k).state ≠ .queued) :
      ((s.resultsOf x).truck k).state ≠ .queued := fun queued => notQueued (State.resultsOf_queued x queued)
  refine ⟨_, exec_commit_running computing running, ⟨s.grantedBy x, ?_⟩, fun k => ?_, ?_,
    fun i e c d place given charge => ?_, fun i e c k f r m y place given kind state throughout fleet => ?_,
    fun k notQueued untaken => ?_, s.commitOf_shareTime x, fun f => ?_, s.commitOf_frame x⟩
  · rw [grants]
    exact x.table_eq s.now (s.grantedBy x)
  · rw [grants]
    exact Snapshot.mem_table_breachSlots _ _
  · rw [grants]
    exact x.grantEntries_length
  · rw [grants]
    exact Snapshot.grantEntries_getElem? place given charge
  · intro u
    rw [State.commitOf_truck, State.afterGrant_truck (unqueued k (by rw [state]; exact nofun)),
      State.resultsOf_own once place given kind, State.applyTarget_record, if_pos ⟨fleet, state, throughout⟩]
  · rw [State.commitOf_truck, State.afterGrant_truck (unqueued k notQueued), State.resultsOf_untouched]
    rintro e mem fleet r m y kind ⟨own, drawing, throughout⟩
    exact untaken ⟨drawing, throughout, e, mem, r, m, y, own ▸ kind⟩
  · exact (s.commitOf_side x f).trans (by cases f <;> rfl)

end Sys2Proof.Machine

namespace Sys2Proof.Machine

/-! ### Answers as they are sent -/

theorem Answer.frame_eq {a : Answer} {kind : Byte} {payload : List Byte} (code : a.code = kind)
    (fields : a.payload = payload) :
    a.frame = [0xA5, kind] ++ [BitVec.ofNat 8 payload.length] ++ payload ++ split (frameCheck kind payload) := by
  subst code fields
  rfl

theorem flagsByte_eq (isoReset : Bool) : flagsByte isoReset = BitVec.ofNat 8 (if isoReset then 1 else 0) := by
  cases isoReset <;> rfl

/-! ### Bits and bytes -/

theorem presenceBits_lt (l : List Bool) : presenceBits l < 2 ^ l.length := by
  induction l with
  | nil => exact Nat.one_pos
  | cons b l ih =>
    rw [presenceBits, List.length_cons, Nat.pow_succ]
    cases b <;> simp only [bit] <;> simp <;> omega

theorem bit_succ (b : Bool) (n : Nat) : bit b (n + 1) = 2 * bit b n := by
  cases b
  · rfl
  · simp [bit, Nat.pow_succ, Nat.mul_comm]

/-- The fault hold flags byte is a presence field (R163). -/
theorem FaultFlags.code_eq (f : FaultFlags) : f.code = presenceBits
    [f.unauthorisedContact, f.barredEntry, f.overdrawA, f.overdrawB, f.phantomOverflow] := by
  simp only [FaultFlags.code, presenceBits, bit_succ]
  omega

theorem EventFlags.code_eq (e : EventFlags) : e.code = presenceBits
    [e.truckSilent, e.truckLost, e.raiseTimeout, e.limitNoncompliant, e.feedLateA, e.feedLateB, e.feedOutA, e.feedOutB,
      e.shedFailedA, e.shedFailedB, e.positionLost, e.storeDone, e.storeFailed] := by
  simp only [EventFlags.code, presenceBits, bit_succ]
  omega

/-- The low byte of a number, and its bits above. -/
theorem getLsbD_byte (n i : Nat) : (byte n).getLsbD i = (decide (i < 8) && n.testBit i) := by
  rw [byte, BitVec.getLsbD_ofNat]

theorem testBit_div_256 (n i : Nat) : (n / 256).testBit i = n.testBit (i + 8) := by
  rw [show 256 = 2 ^ 8 from rfl, Nat.testBit_div_two_pow]

theorem word_bytes2 (n : Nat) : (byte (n / 256) ++ byte n : BitVec 16) = BitVec.ofNat 16 n := by
  refine BitVec.eq_of_getLsbD_eq fun i inside => ?_
  rw [BitVec.getLsbD_append, getLsbD_byte, getLsbD_byte, testBit_div_256, BitVec.getLsbD_ofNat]
  by_cases low : i < 8
  · simp [low, inside]
  · simp [low, inside, show i - 8 < 8 by omega, show i - 8 + 8 = i by omega]

theorem word_bytes4 (n : Nat) :
    (byte (n / 16777216) ++ byte (n / 65536) ++ byte (n / 256) ++ byte n : BitVec 32) = BitVec.ofNat 32 n := by
  refine BitVec.eq_of_getLsbD_eq fun i inside => ?_
  have second : n / 65536 = n / 256 / 256 := by rw [Nat.div_div_eq_div_mul]
  have third : n / 16777216 = n / 256 / 256 / 256 := by rw [Nat.div_div_eq_div_mul, Nat.div_div_eq_div_mul]
  rw [second, third]
  simp only [BitVec.getLsbD_append, getLsbD_byte, testBit_div_256, BitVec.getLsbD_ofNat]
  by_cases first : i < 8
  · simp [first, inside]
  by_cases second : i < 16
  · simp [first, inside, show i - 8 < 8 by omega, show i - 8 + 8 = i by omega]
  by_cases third : i < 24
  · simp [first, inside, show ¬i - 8 < 8 by omega, show i - 8 - 8 < 8 by omega, show i - 8 - 8 + 8 + 8 = i by omega]
  · simp [first, inside, show ¬i - 8 < 8 by omega, show ¬i - 8 - 8 < 8 by omega, show i - 8 - 8 - 8 < 8 by omega,
      show i - 8 - 8 - 8 + 8 + 8 + 8 = i by omega]

/-! ### The contents of a report part -/

theorem contents_unmarked {items : List Item} (none : items.filterMap Item.mark = []) :
    contents items = items.flatMap Item.bytes := by
  simp [contents, none, List.flatMap_def]

theorem contents_marked {items : List Item} (some : items.filterMap Item.mark ≠ []) :
    contents items = bytes2 (presenceBits (items.filterMap Item.mark)) ++ items.flatMap Item.bytes := by
  simp [contents, some, List.flatMap_def]

/-- Settles O60: an answer is its kind and payload in one envelope, a flag field is the number whose bits are the flags,
and the presence field is the one of the optional items. -/
theorem reportContentsLaidOut : Obligations.ReportContentsLaidOut := by
  refine ⟨?_, ?_, fun f => ?_, fun e => ?_, fun items => ?_⟩
  · intro one two flags reason sentAs
    refine ⟨fun k isoReset echo => ?_, fun k r isoReset => ?_, fun n r => ?_, fun n d issued low pos r => ?_,
      fun share mode sect shed cap faults drawing => ?_, fun k part contents => ?_, fun r => ?_⟩
    · exact Answer.frame_eq rfl (by rw [Answer.payload, flagsByte_eq]; rfl)
    · exact Answer.frame_eq rfl (by rw [Answer.payload, flagsByte_eq]; rfl)
    · exact Answer.frame_eq rfl (by cases r <;> rfl)
    · exact Answer.frame_eq rfl (by cases r <;> rfl)
    · exact Answer.frame_eq rfl rfl
    · exact Answer.frame_eq rfl rfl
    · cases r <;> rfl
  · exact ⟨rfl, rfl, rfl, rfl, rfl, rfl, rfl, rfl, rfl, rfl, ⟨rfl, fun _ => rfl⟩, rfl, rfl, rfl⟩
  · rw [FaultFlags.code_eq]
    exact ⟨Nat.lt_of_lt_of_eq (presenceBits_lt _) (by simp), presenceBits_testBit _⟩
  · rw [EventFlags.code_eq]
    exact ⟨Nat.lt_of_lt_of_eq (presenceBits_lt _) (by simp), presenceBits_testBit _⟩
  · intro marks flat
    refine ⟨contents_unmarked, fun some short => ⟨_, _, contents_marked some, fun i inside => ?_⟩, fun t => ?_⟩
    · rw [word_bytes2, BitVec.getLsbD_ofNat, presenceBits_testBit]
      simp [inside, marks]
    · exact ⟨_, _, _, _, rfl, (word_bytes4 _).trans (by simp)⟩

end Sys2Proof.Machine

namespace Sys2Proof.Machine

/-! ### The receiver byte by byte (O52) -/

section Receiver
variable {s : State} {p : Port}

/-- The receiver of the port put in `rx`, the rest of the port as it was. -/
def State.setRx (s : State) (p : Port) (rx : Rx) : State := s.setPort p { s.port p with rx := rx }

theorem State.discardFrame_eq (s : State) (p : Port) :
    s.discardFrame p =
      s.setPort p { s.port p with rx := .hunt, checkErrors := min 15 ((s.port p).checkErrors + 1) } := by
  rw [State.discardFrame, PortState.discard, raised_eq]

theorem State.discardKind_eq (s : State) (p : Port) :
    s.discardKind p =
      s.setPort p { s.port p with rx := .hunt, unknownKinds := min 15 ((s.port p).unknownKinds + 1) } := by
  rw [State.discardKind, PortState.discardKind, raised_eq]

theorem exec_frameStart_heard (hears : s.hears p = true) (b : Byte) :
    exec (.frameStart p ⟨b, true⟩) s = .next (s.takeByte p b) := by
  show execFrameStart p ⟨b, true⟩ s = _
  simp [execFrameStart, hears]

theorem exec_frameStart_unstopped (hears : s.hears p = true) (b : Byte) :
    exec (.frameStart p ⟨b, false⟩) s = .next (if (s.port p).rx = .hunt then s else s.discardFrame p) := by
  show execFrameStart p ⟨b, false⟩ s = _
  simp [execFrameStart, hears]

/-! What a byte with its stop bit does in each state of the receiver (R159). -/

theorem State.takeByte_hunt (waits : (s.port p).rx = .hunt) (b : Byte) :
    s.takeByte p b = if b = 0xA5 then s.setRx p (.kind s.now) else s := by
  simp only [State.takeByte, waits, State.setRx]

theorem State.takeByte_kind {a : Time} (started : (s.port p).rx = .kind a) (b : Byte) :
    s.takeByte p b = s.setRx p (.length a b) := by
  simp only [State.takeByte, started, State.setRx]

theorem State.takeByte_length {a : Time} {k : Byte} (started : (s.port p).rx = .length a k) (b : Byte) :
    s.takeByte p b = if b.toNat ≤ 40 then s.setRx p (.body a k b.toNat []) else s.discardFrame p := by
  simp only [State.takeByte, started, State.setRx]

theorem State.takeByte_body {a : Time} {k : Byte} {n : Nat} {held : List Byte}
    (started : (s.port p).rx = .body a k n held) (short : held.length + 1 < n + 2) (b : Byte) :
    s.takeByte p b = s.setRx p (.body a k n (held ++ [b])) := by
  simp only [State.takeByte, started, State.setRx, List.length_append, List.length_singleton, if_pos short]

/-- The second check byte completes the frame: the payload is what was held before the first one. -/
theorem State.takeByte_last {a : Time} {k hi : Byte} {payload : List Byte}
    (started : (s.port p).rx = .body a k payload.length (payload ++ [hi])) (lo : Byte) :
    s.takeByte p lo = s.completeFrame p k payload (word hi lo) := by
  simp [State.takeByte, started]

/-! The examination of a complete frame, case by case (R160). -/

theorem examine_badCheck {kind : Byte} {payload : List Byte} {check : U16} (wrong : check ≠ frameCheck kind payload) :
    examine p kind payload check = .badCheck := if_pos wrong

theorem examine_unknownKind {kind : Byte} {payload : List Byte}
    (unknown : ∀ q : ReqKind, q.code = kind → q.onPort p = false) :
    examine p kind payload (frameCheck kind payload) = .unknownKind := by
  rw [examine, if_neg (not_not_intro rfl)]
  cases named : kindOfCode kind with
  | none => rfl
  | some q => simp [unknown q (kindOfCode_eq_some.1 named)]

theorem examine_badLength {q : ReqKind} {payload : List Byte} (accepted : q.onPort p = true)
    (length : payload.length ≠ q.length) :
    examine p q.code payload (frameCheck q.code payload) = .badLength := by
  rw [examine, if_neg (not_not_intro rfl), kindOfCode_eq_some.2 rfl]
  simp [accepted, length]

theorem exec_frameDiscarded_misfit (hears : s.hears p = true) {kind : Byte} {payload : List Byte} {check : U16}
    (verdict : examine p kind payload check = .badCheck ∨ examine p kind payload check = .badLength) :
    exec (.frameDiscarded p (.complete kind payload check)) s = .next (s.discardFrame p) := by
  show execFrameDiscarded p (.complete kind payload check) s = _
  obtain bad | bad := verdict <;> simp only [execFrameDiscarded, if_pos hears, bad]

theorem exec_frameDiscarded_unknownKind (hears : s.hears p = true) {kind : Byte} {payload : List Byte} {check : U16}
    (verdict : examine p kind payload check = .unknownKind) :
    exec (.frameDiscarded p (.complete kind payload check)) s = .next (s.discardKind p) := by
  show execFrameDiscarded p (.complete kind payload check) s = _
  simp only [execFrameDiscarded, if_pos hears, verdict]

/-- A request's frame is handed on from a receiver in HUNT, and acts there as the request itself (R160). -/
theorem State.completeFrame_request {i : Instr} {k : ReqKind} {payload : List Byte}
    (parts : requestParts i = some (p, k, payload)) :
    exec i (s.setRx p .hunt) = .next (s.completeFrame p k.code payload (frameCheck k.code payload)) := by
  rw [State.completeFrame, examine_of_requestParts parts]
  exact exec_of_takeRequest _ (by rw [parts]; rfl)

end Receiver

/-! What is lost while the port sends (R158). -/

section Losing
variable {s : State} {p : Port}

theorem State.loses_of_sending (out : s.inReset = false) (sends : (s.port p).tx ≠ none) : s.loses p = true := by
  simp [State.loses, out, Option.isSome_iff_ne_none, sends]

theorem exec_frameStart_lost (loses : s.loses p = true) (b : RxByte) :
    exec (.frameStart p b) s = .next (s.setPort p { s.port p with
      lost := if (s.port p).lostRx = .hunt ∧ b = ⟨0xA5, true⟩ then (s.port p).lost ++ [s.now] else (s.port p).lost,
      lostRx := (s.port p).lostRx.skip s.now b }) := by
  show execFrameStart p b s = _
  simp only [execFrameStart, State.hears_of_loses loses, loses, if_true, Bool.false_eq_true, if_false]
  rw [PortState.loseByte_frame, PortState.loseByte_lost]

/-- Every request is taken on its own port by a rule, so it is lost while that port sends. -/
theorem exec_request_lost {i : Instr} {k : ReqKind} {payload : List Byte}
    (parts : requestParts i = some (p, k, payload)) (loses : s.loses p = true) :
    exec i s = .next (s.setPort p ((s.port p).lose s.now)) := by
  rw [exec_of_takeRequest s (by rw [parts]; rfl)]
  refine congrArg Host.Outcome.next ?_
  cases i
  case feedReport f _ _ _ _ _ => cases f <;> cases parts <;> exact State.request_of_loses _ loses
  case shed f _ => cases f <;> cases parts <;> exact State.request_of_loses _ loses
  case shedRelease f => cases f <;> cases parts <;> exact State.request_of_loses _ loses
  all_goals cases parts
  all_goals simp only [State.takeRequest, State.request_of_loses _ loses]

theorem exec_frameTimeout_frame {a : Time} (start : (s.port p).rx.start = some a) (old : 50 ≤ (s.now - a).toNat) :
    exec (.frameTimeout p) s = .next (s.discardFrame p) := by
  show execFrameTimeout p s = _
  rw [execFrameTimeout, if_pos ((Rx.timedOut_iff _ _).2 ⟨a, start, old⟩)]

theorem exec_frameTimeout_lost {a : Time} {rest : List Time}
    (young : ∀ b, (s.port p).rx.start = some b → (s.now - b).toNat < 50) (lost : (s.port p).lost = a :: rest)
    (old : 50 ≤ (s.now - a).toNat) :
    exec (.frameTimeout p) s = .next (s.setPort p { s.port p with
      lost := rest, checkErrors := min 15 ((s.port p).checkErrors + 1) }) := by
  have inTime : ¬(s.port p).rx.timedOut s.now = true := by
    rw [Rx.timedOut_iff]
    rintro ⟨b, start, late⟩
    exact absurd (young b start) (by omega)
  show execFrameTimeout p s = _
  rw [execFrameTimeout, if_neg inTime, if_pos ((PortState.lostOut_iff _ _).2 ⟨a, rest, lost, old⟩),
    PortState.countLost, lost, raised_eq, List.tail_cons]

end Losing

/-- Settles O52: one lemma per state of the receiver, per verdict of the examination and per way of losing. -/
theorem receiverTakesBytes : Obligations.ReceiverTakesBytes := by
  intro s p x becomes badCheck badKind
  have discards : s.discardFrame p = badCheck := s.discardFrame_eq p
  have discardsKind : s.discardKind p = badKind := s.discardKind_eq p
  refine ⟨fun hears => ⟨fun hunt => ⟨?_, fun b other => ?_, fun b => ?_⟩, fun busy => ⟨fun b => ?_, ?_⟩,
    fun a b started => ?_, fun a k b started => ⟨fun short => ?_, fun long => ?_⟩,
    fun a k n held b started short => ?_, fun b long => ?_,
    fun k payload check => ⟨fun wrong => ?_, fun right unknown => ?_, fun q right code accepted length => ?_⟩,
    fun a k payload hi lo started => ?_⟩, fun out sends => ?_, fun a start old => ?_,
    fun a rest young lost old => exec_frameTimeout_lost young lost old, rfl⟩
  · rw [exec_frameStart_heard hears, State.takeByte_hunt hunt, if_pos rfl]; rfl
  · rw [exec_frameStart_heard hears, State.takeByte_hunt hunt, if_neg other]
  · rw [exec_frameStart_unstopped hears, if_pos hunt]
  · rw [exec_frameStart_unstopped hears, if_neg busy, discards]
  · rw [← discards]
    show execFrameDiscarded p .missingStop s = _
    simp only [execFrameDiscarded, hears, if_true]
    rw [if_neg busy]
  · rw [exec_frameStart_heard hears, State.takeByte_kind started]; rfl
  · rw [exec_frameStart_heard hears, State.takeByte_length started, if_pos short]; rfl
  · rw [exec_frameStart_heard hears, State.takeByte_length started, if_neg (by omega), discards]
  · rw [exec_frameStart_heard hears, State.takeByte_body started short]; rfl
  · rw [← discards]
    show execFrameDiscarded p (.lengthByte b) s = _
    simp only [execFrameDiscarded, hears, if_true]
    rw [if_pos long]
  · rw [exec_frameDiscarded_misfit hears (.inl (examine_badCheck wrong)), discards]
  · rw [right, exec_frameDiscarded_unknownKind hears (examine_unknownKind unknown), discardsKind]
  · subst code
    rw [right, exec_frameDiscarded_misfit hears (.inr (examine_badLength accepted length)), discards]
  · intro last agrees
    have completed : last = .next (s.completeFrame p k payload (word hi lo)) := by
      rw [← State.takeByte_last started]
      exact exec_frameStart_heard hears lo
    refine ⟨fun wrong => ?_, fun right unknown => ?_, fun q right code accepted length => ?_,
      fun i q right code parts => ?_⟩
    · rw [completed, State.completeFrame, examine_badCheck (check := word hi lo) wrong, discards]
    · rw [completed, State.completeFrame, show word hi lo = _ from right, examine_unknownKind unknown, discardsKind]
    · subst code
      rw [completed, State.completeFrame, show word hi lo = _ from right, examine_badLength accepted length, discards]
    · subst code
      rw [completed, show word hi lo = _ from right]
      exact (State.completeFrame_request parts).symm
  · have loses := State.loses_of_sending out sends
    intro lost byteLost
    refine ⟨fun i k payload parts => exec_request_lost parts loses, fun hunt => ⟨?_, fun b other => ?_⟩, fun b => ?_,
      fun a b started => ?_, fun a k b started => ?_, fun a k n held b started => ?_⟩
    · refine (exec_frameStart_lost loses _).trans ?_
      rw [if_pos ⟨hunt, rfl⟩, hunt]; rfl
    · refine (exec_frameStart_lost loses _).trans ?_
      rw [if_neg fun start => other (congrArg RxByte.value start.2), hunt, Rx.skip, if_pos rfl, if_neg other]
    · refine (exec_frameStart_lost loses _).trans ?_
      rw [if_neg fun start => Bool.false_ne_true (congrArg RxByte.stopBit start.2)]; rfl
    all_goals
      refine (exec_frameStart_lost loses _).trans ?_
      rw [if_neg fun start => by simp [x, start.1] at started, show (s.port p).lostRx = _ from started]
      rfl
  · rw [← discards]; exact exec_frameTimeout_frame start old

end Sys2Proof.Machine

namespace Sys2Proof.Machine

/-! ### A request's frame received byte by byte (O54) -/

section Bytes
variable {s t : State} {p : Port}

theorem State.receive_nil : s.receive p [] = s := rfl

theorem State.receive_cons {b : Byte} (next : exec (.frameStart p ⟨b, true⟩) s = .next t) (bs : List Byte) :
    s.receive p (b :: bs) = t.receive p bs := by
  simp only [State.receive, List.foldl_cons, next]

/-- `along rx` is the state in which the frame has come to `rx`: each byte but the last takes it one place further by the
table of R159, in the receiver and among the lost bytes alike. -/
def FollowsFrame (p : Port) (now : Time) (along : Rx → State) : Prop :=
  ∀ rx b, rx ≠ .hunt → rx.skip now ⟨b, true⟩ ≠ .hunt →
    exec (.frameStart p ⟨b, true⟩) (along rx) = .next (along (rx.skip now ⟨b, true⟩))

section Follow
variable {now : Time} {along : Rx → State}

theorem FollowsFrame.receive_body (follows : FollowsFrame p now along) (a : Time) (k : Byte) (n : Nat) (rest : List Byte) :
    ∀ (bs held : List Byte), held.length + bs.length < n + 2 →
      (along (.body a k n held)).receive p (bs ++ rest) = (along (.body a k n (held ++ bs))).receive p rest
  | [], held, _ => by rw [List.nil_append, List.append_nil]
  | b :: bs, held, short => by
    rw [List.length_cons] at short
    have further : (Rx.body a k n held).skip now ⟨b, true⟩ = .body a k n (held ++ [b]) := by
      rw [Rx.skip, if_pos rfl]
      exact if_pos (by omega)
    have next := follows (.body a k n held) b nofun (by rw [further]; exact nofun)
    rw [further] at next
    rw [List.cons_append, State.receive_cons next,
      follows.receive_body a k n rest bs (held ++ [b]) (by rw [List.length_append, List.length_singleton]; omega),
      List.append_assoc, List.singleton_append]

/-- After the start byte, the bytes of a frame up to its first check byte are held. -/
theorem FollowsFrame.receive_frame (follows : FollowsFrame p now along) (a : Time) (k hi lo : Byte) {payload : List Byte}
    (fits : payload.length ≤ 40) :
    (along (.kind a)).receive p (k :: byte payload.length :: payload ++ [hi, lo]) =
      (along (.body a k payload.length (payload ++ [hi]))).receive p [lo] := by
  have length : (byte payload.length).toNat = payload.length := by
    rw [byte, BitVec.toNat_ofNat]; omega
  have counted : (Rx.length a k).skip now ⟨byte payload.length, true⟩ = .body a k payload.length [] := by
    rw [Rx.skip, if_pos rfl]
    exact (if_pos (Nat.le_trans (Nat.le_of_eq length) fits)).trans (by rw [length])
  have kindNext := follows (.kind a) k nofun nofun
  have lengthNext := follows (.length a k) (byte payload.length) nofun (by rw [counted]; exact nofun)
  rw [counted] at lengthNext
  have held := follows.receive_body a k payload.length [lo] (payload ++ [hi]) []
    (by rw [List.length_append, List.length_singleton, List.length_nil]; omega)
  rw [List.append_assoc, List.singleton_append] at held
  exact (State.receive_cons kindNext _).trans ((State.receive_cons lengthNext _).trans held)

end Follow

/-! The frame in the receiver of a port that hears. -/

theorem State.hears_setRx (s : State) (p : Port) (rx : Rx) : (s.setRx p rx).hears p = s.hears p := by
  cases p <;> rfl

theorem State.rx_setRx (s : State) (p : Port) (rx : Rx) : ((s.setRx p rx).port p).rx = rx := by
  rw [State.setRx, State.port_setPort_same]

theorem State.setRx_setRx (s : State) (p : Port) (rx rx' : Rx) : (s.setRx p rx).setRx p rx' = s.setRx p rx' := by
  rw [State.setRx, State.setRx, State.port_setPort_same, State.setPort_setPort]; rfl

theorem State.setRx_self {rx : Rx} (is : (s.port p).rx = rx) : s.setRx p rx = s := by
  subst is
  exact s.setPort_port p

theorem followsFrame_heard (hears : s.hears p = true) : FollowsFrame p s.now (s.setRx p) := by
  intro rx b busy going
  rw [exec_frameStart_heard ((s.hears_setRx p rx).trans hears)]
  have at' := s.rx_setRx p rx
  refine congrArg Host.Outcome.next ?_
  cases rx with
  | hunt => exact absurd rfl busy
  | kind a => exact (State.takeByte_kind at' b).trans (s.setRx_setRx p _ _)
  | length a k =>
    have short : b.toNat ≤ 40 := by
      refine Classical.byContradiction fun long => ?_
      exact going (by rw [Rx.skip, if_pos rfl]; exact if_neg long)
    rw [State.takeByte_length at', if_pos short, State.setRx_setRx, Rx.skip, if_pos rfl]
    exact congrArg (s.setRx p) (if_pos short).symm
  | body a k n held =>
    have short : held.length + 1 < n + 2 := by
      refine Classical.byContradiction fun long => ?_
      exact going (by rw [Rx.skip, if_pos rfl]; exact if_neg long)
    rw [State.takeByte_body at' short, State.setRx_setRx, Rx.skip, if_pos rfl]
    exact congrArg (s.setRx p) (if_pos short).symm

/-! The frame lost on a port that sends: its request is kept with the time of the start byte. -/

/-- The port with `starts` as its lost requests, the lost bytes having come to `rx` in a frame. -/
def State.losing (s : State) (p : Port) (starts : List Time) (rx : Rx) : State :=
  s.setPort p { s.port p with lost := starts, lostRx := rx }

theorem State.loses_losing (s : State) (p : Port) (starts : List Time) (rx : Rx) :
    (s.losing p starts rx).loses p = s.loses p := by
  cases p <;> rfl

theorem State.now_losing (s : State) (p : Port) (starts : List Time) (rx : Rx) : (s.losing p starts rx).now = s.now := by
  cases p <;> rfl

theorem State.port_losing (s : State) (p : Port) (starts : List Time) (rx : Rx) :
    (s.losing p starts rx).port p = { s.port p with lost := starts, lostRx := rx } := s.port_setPort_same p _

/-- Inside a frame a lost byte moves `rx` alone. -/
theorem exec_frameStart_losing (loses : s.loses p = true) (starts : List Time) {rx : Rx} (busy : rx ≠ .hunt) (b : RxByte) :
    exec (.frameStart p b) (s.losing p starts rx) = .next (s.losing p starts (rx.skip s.now b)) := by
  rw [exec_frameStart_lost ((s.loses_losing p starts rx).trans loses), State.port_losing, State.now_losing,
    if_neg fun start => busy start.1, State.losing, State.setPort_setPort]
  rfl

theorem followsFrame_lost (loses : s.loses p = true) (starts : List Time) : FollowsFrame p s.now (s.losing p starts) :=
  fun _ b busy _ => exec_frameStart_losing loses starts busy ⟨b, true⟩

end Bytes

theorem ReqKind.length_le (k : ReqKind) : k.length ≤ 40 := by
  cases k <;> decide

/-- Settles O54: the start byte, the bytes that follow the frame, and the last byte, which hands the request on when the
port hears and ends the lost frame when it sends. -/
theorem frameReceptionIsRequest : Obligations.FrameReceptionIsRequest := by
  intro s i p k payload parts idle
  have fits : payload.length ≤ 40 := (parse_of_requestParts parts).2.1 ▸ k.length_le
  obtain ⟨hi, lo, checked⟩ : ∃ hi lo, frameCheck k.code payload = word hi lo := ⟨_, _, (word_split _).symm⟩
  rw [checked, split_word]
  obtain ⟨hears, hunt⟩ | ⟨out, sends, hunt⟩ := idle
  · have start : exec (.frameStart p ⟨0xA5, true⟩) s = .next (s.setRx p (.kind s.now)) := by
      rw [exec_frameStart_heard hears, State.takeByte_hunt hunt, if_pos rfl]
    rw [List.cons_append, State.receive_cons start, (followsFrame_heard hears).receive_frame s.now k.code hi lo fits]
    have last := exec_frameStart_heard ((s.hears_setRx p (.body s.now k.code payload.length (payload ++ [hi]))).trans hears) lo
    rw [State.takeByte_last (s.rx_setRx p _), ← checked] at last
    rw [State.receive_cons last, State.receive_nil, ← State.completeFrame_request parts, State.setRx_setRx,
      State.setRx_self hunt]
  · have loses := State.loses_of_sending out sends
    have start : exec (.frameStart p ⟨0xA5, true⟩) s =
        .next (s.losing p ((s.port p).lost ++ [s.now]) (.kind s.now)) := by
      rw [exec_frameStart_lost loses, if_pos ⟨hunt, rfl⟩, hunt]
      rfl
    have last := exec_frameStart_losing loses ((s.port p).lost ++ [s.now])
      (rx := .body s.now k.code payload.length (payload ++ [hi])) nofun ⟨lo, true⟩
    have ended : (Rx.body s.now k.code payload.length (payload ++ [hi])).skip s.now ⟨lo, true⟩ = .hunt := by
      rw [Rx.skip, if_pos rfl]
      exact if_neg (by rw [List.length_append, List.length_singleton]; omega)
    rw [List.cons_append, State.receive_cons start, (followsFrame_lost loses _).receive_frame s.now k.code hi lo fits,
      State.receive_cons last, State.receive_nil, ended, exec_request_lost parts loses, PortState.lose, State.losing, hunt]

end Sys2Proof.Machine

namespace Sys2Proof.Machine

/-! ### The width of a report part (R166) -/

/-- The bytes that the items take, without the presence field. -/
def itemsWidth (items : List Item) : Nat := (items.map fun x => x.bytes.length).sum

@[simp] theorem itemsWidth_nil : itemsWidth [] = 0 := rfl

@[simp] theorem itemsWidth_cons (x : Item) (items : List Item) :
    itemsWidth (x :: items) = x.bytes.length + itemsWidth items := by
  rw [itemsWidth, List.map_cons, List.sum_cons, itemsWidth]

@[simp] theorem itemsWidth_append (xs ys : List Item) : itemsWidth (xs ++ ys) = itemsWidth xs + itemsWidth ys := by
  rw [itemsWidth, List.map_append, List.sum_append, itemsWidth, itemsWidth]

theorem contents_length_le (items : List Item) : (contents items).length ≤ 2 + itemsWidth items := by
  have flat : (items.map Item.bytes).flatten.length = itemsWidth items := by
    rw [List.length_flatten, List.map_map]; rfl
  rw [contents, List.length_append, flat]
  split
  · exact Nat.add_le_add_right (Nat.zero_le 2) _
  · exact Nat.le_refl _

@[simp] theorem item1_width (n : Nat) : (item1 n).bytes.length = 1 := rfl
@[simp] theorem item2_width (n : Nat) : (item2 n).bytes.length = 2 := rfl
@[simp] theorem item4_width (n : Nat) : (item4 n).bytes.length = 4 := rfl
@[simp] theorem itemYes_width (b : Bool) : (itemYes b).bytes.length = 1 := rfl

/-! An optional item has the width of its field, present or absent. -/

@[simp] theorem itemTime_width (t : Option Time) : (itemTime t).bytes.length = 4 := by cases t <;> rfl
@[simp] theorem itemSpeed_width (o : Option Nat) : (itemSpeed o).bytes.length = 2 := by cases o <;> rfl
@[simp] theorem itemInterval_width (o : Option Nat) : (itemInterval o).bytes.length = 4 := by cases o <;> rfl
@[simp] theorem itemGrant_width (g : Option GrantRec) : (itemGrant g).bytes.length = 5 := by cases g <;> rfl
@[simp] theorem itemOrigin_width (o : Option (Slot × U16)) : (itemOrigin o).bytes.length = 3 := by cases o <;> rfl

/-! Each part takes at most 36 bytes beside the presence field. -/

section Widths
variable (s : State)

theorem queueItems_width (l : List QueueEntry) :
    itemsWidth (l.map fun e => [item1 (e.slot.val + 1), item1 e.span]).flatten = 2 * l.length := by
  induction l with
  | nil => rfl
  | cons e l ih => simp [ih]; omega

theorem State.arbiterItems_width (short : s.queue.length ≤ 12) : itemsWidth s.arbiterItems ≤ 36 := by
  simp only [State.arbiterItems, itemsWidth_append, queueItems_width]
  simp [State.gateConditions]
  omega

theorem State.truckItems_width (k : Slot) : itemsWidth (s.truckItems k) ≤ 36 := by
  cases fleet : (s.truck k).fleet <;> simp [State.truckItems, fleet, itemOpt, bytes2]

theorem State.truckTimes_width (k : Slot) : itemsWidth (s.truckTimes k) ≤ 36 := by
  simp [State.truckTimes]

theorem State.entryItems_width (e : Entry) : itemsWidth (s.entryItems e) ≤ 36 := by
  unfold State.entryItems
  cases e.kind <;> simp

theorem channelItems_width (c : Channel) : itemsWidth (channelItems c) ≤ 36 := by
  simp [channelItems]

theorem State.feedItems_width (f : Feed) : itemsWidth (s.feedItems f) ≤ 36 := by
  simp [State.feedItems]

theorem isoItems_width (x : IsoSeq) : itemsWidth (isoItems x) = 3 := by
  cases x <;> rfl

theorem tableItems_width (t : GrantTable) : itemsWidth (tableItems t) ≤ 36 := by
  cases outcome : t.outcome <;> simp [tableItems, outcome, itemOpt]

theorem grantEntryItems_width (e : GrantEntry) : itemsWidth (grantEntryItems e) ≤ 36 := by
  unfold grantEntryItems
  cases e.who <;> simp

end Widths

end Sys2Proof.Machine

namespace Sys2Proof.Machine

/-! ### The parts of the queries (R165) -/

section Parts
variable (s : State)

theorem State.trucksPart_record (k : Slot) : s.trucksPart (k.val + 1) = some (s.truckItems k) := by
  rw [State.trucksPart, if_neg (by omega), dif_pos (by omega)]
  exact congrArg (fun j => some (s.truckItems j)) (Fin.ext (by simp only; omega))

theorem State.trucksPart_times (k : Slot) : s.trucksPart (k.val + 13) = some (s.truckTimes k) := by
  rw [State.trucksPart, if_neg (by omega), dif_neg (by omega), dif_pos (by omega)]
  exact congrArg (fun j => some (s.truckTimes j)) (Fin.ext (by simp only; omega))

theorem State.trucksPart_beyond {n : Nat} (beyond : 24 < n) : s.trucksPart n = none := by
  rw [State.trucksPart, if_neg (by omega), dif_neg (by omega), dif_neg (by omega)]

theorem State.linePart_entry {n : Nat} (first : 1 ≤ n) (last : n ≤ 16) :
    s.linePart n = s.line[n - 1]?.map s.entryItems := by
  rw [State.linePart, if_neg (by omega), if_pos last]

theorem State.linePart_channel (j : Joint) : s.linePart (j.val + 17) = some (channelItems (s.channel j)) := by
  rw [State.linePart, if_neg (by omega), if_neg (by omega), dif_pos (by omega)]
  exact congrArg (fun i => some (channelItems (s.channel i))) (Fin.ext (by simp only; omega))

theorem State.linePart_beyond {n : Nat} (beyond : (1 ≤ n ∧ n ≤ 16 ∧ s.line.length < n) ∨ 33 < n) :
    s.linePart n = none := by
  obtain ⟨first, last, out⟩ | out := beyond
  · rw [s.linePart_entry first last, List.getElem?_eq_none (by omega), Option.map_none]
  · rw [State.linePart, if_neg (by omega), if_neg (by omega), dif_neg (by omega)]

theorem State.feedsPart_beyond {n : Nat} (beyond : 2 < n) : s.feedsPart n = none := by
  obtain ⟨m, rfl⟩ := Nat.exists_eq_add_of_lt beyond
  rw [show 2 + m + 1 = m + 3 by omega]
  rfl

theorem State.spansPart_beyond {n : Nat} (beyond : 16 < n) : s.spansPart n = none := by
  rw [State.spansPart, if_neg (by omega), if_neg (by omega)]

theorem State.grantsPart_entry {n : Nat} (first : 1 ≤ n) (last : n ≤ 16) :
    s.grantsPart n = s.grants.entries[n - 1]?.map grantEntryItems := by
  rw [State.grantsPart, if_neg (by omega), if_pos last]

theorem State.grantsPart_beyond {n : Nat} (beyond : (1 ≤ n ∧ n ≤ 16 ∧ s.grants.entries.length < n) ∨ 17 < n) :
    s.grantsPart n = none := by
  obtain ⟨first, last, out⟩ | out := beyond
  · rw [s.grantsPart_entry first last, List.getElem?_eq_none (by omega), Option.map_none]
  · rw [State.grantsPart, if_neg (by omega), if_neg (by omega), if_neg (by omega)]

end Parts

/-! ### The items written out -/

theorem itemOpt_eq (w : Nat) (o : Option (List Byte)) :
    itemOpt w o = ⟨o.getD (List.replicate w 0), some o.isSome⟩ := by
  cases o <;> rfl

theorem itemTime_eq (t : Option Time) : itemTime t = itemOpt 4 (t.map fun d => bytes4 d.toNat) := rfl

theorem byte_grantResultCode (applied : Bool) : byte (grantResultCode applied) = if applied then 1 else 2 := by
  cases applied <;> rfl

theorem slotSet_eq (ks : List Slot) :
    slotSet ks = ((List.finRange 12).map fun k => if k ∈ ks then 2 ^ k.val else 0).sum := by
  simp only [slotSet, allSlots_eq_finRange, bit, decide_eq_true_eq]

theorem SectionState.beq_running (x : SectionState) : (x == .running) = decide (x = .running) := by cases x <;> rfl

theorem FeedMode.bne_none (x : FeedMode) : (x != .none) = decide (x ≠ .none) := by cases x <;> rfl

theorem FaultFlags.not_any (f : FaultFlags) : (!f.any) = (f == {}) := by
  rw [Bool.eq_iff_iff, Bool.not_eq_true', FaultFlags.any_eq_false, beq_iff_eq]

/-- The six conditions of the gate in the words of R109. -/
theorem State.gateConditions_eq (s : State) : s.gateConditions =
    [decide (s.sect = SectionState.running), decide (s.feedMode ≠ FeedMode.none), s.faults == ({} : FaultFlags),
      s.feedA.shed.state != ShedState.pending && s.feedB.shed.state != ShedState.pending,
      decide (∀ k : Slot, (s.truck k).state ≠ TruckState.raisePending),
      s.spacing.all fun d => !(decide (1 ≤ (d - s.now).toNat) && decide ((d - s.now).toNat ≤ 2147483647))] := by
  have pending : (allSlots.all fun k => (s.truck k).state != .raisePending) =
      decide (∀ k : Slot, (s.truck k).state ≠ .raisePending) := by
    rw [Bool.eq_iff_iff, List.all_eq_true, decide_eq_true_iff]
    simp only [mem_allSlots, forall_const, bne_iff_ne]
  rw [State.gateConditions, SectionState.beq_running, FeedMode.bne_none, FaultFlags.not_any, pending]
  rfl

theorem State.healthyConditions_eq (s : State) : s.healthyConditions =
    [decide (s.sect = SectionState.running), decide (s.feedMode ≠ FeedMode.none), s.faults == ({} : FaultFlags)] := by
  rw [State.healthyConditions, SectionState.beq_running, FeedMode.bne_none, FaultFlags.not_any]

/-! ### Queries (O31) -/

/-- A part that is defined, with its items as they are laid out, is reported. -/
theorem reports_of_part {s : State} {c : Instr} {kind : ReqKind} {part : Byte} {made : Option (List Item)}
    {laid items : List Item}
    (answers : exec c s = .next (s.send .dispatch (reportOf kind part made))) (is : made = some laid)
    (same : laid = items) (width : s.queue.length ≤ 12 → itemsWidth laid ≤ 36) :
    exec c s = .next (s.send .dispatch (.report kind part.toNat (contents items))) ∧
      (s.queue.length ≤ 12 → (contents items).length ≤ 38) := by
  subst is same
  exact ⟨answers, fun short => Nat.le_trans (contents_length_le _) (Nat.add_le_add_left (width short) 2)⟩

/-- A part that is not defined, or whose item does not stand, is refused. -/
theorem refuses_of_part {s : State} {c : Instr} {kind : ReqKind} {part : Byte} {made : Option (List Item)}
    (answers : exec c s = .next (s.send .dispatch (reportOf kind part made))) (is : made = none) :
    exec c s = .next (s.send .dispatch (.refused kind .noSuchEntry false)) := by
  subst is
  exact answers

section Answers
variable {s : State} (part : Byte)

theorem exec_querySection_zero (hears : s.hears .dispatch = true) :
    exec (.querySection 0) s =
      .next ((s.setEvents {}).send .dispatch (.report .querySection 0 (contents s.sectionItems))) :=
  congrArg Host.Outcome.next (State.request_of_hears _ hears)

theorem exec_querySection_other (hears : s.hears .dispatch = true) (other : part ≠ 0) :
    exec (.querySection part) s = .next (s.send .dispatch (.refused .querySection .noSuchEntry false)) := by
  refine congrArg Host.Outcome.next ((State.request_of_hears _ hears).trans ?_)
  rw [querySectionRule, if_neg other]
  rfl

theorem exec_queryTrucks (hears : s.hears .dispatch = true) : exec (.queryTrucks part) s =
    .next (s.send .dispatch (reportOf .queryTrucks part (s.trucksPart part.toNat))) :=
  congrArg Host.Outcome.next (State.request_of_hears _ hears)

theorem exec_queryLine (hears : s.hears .dispatch = true) : exec (.queryLine part) s =
    .next (s.send .dispatch (reportOf .queryLine part (s.linePart part.toNat))) :=
  congrArg Host.Outcome.next (State.request_of_hears _ hears)

theorem exec_queryFeeds (hears : s.hears .dispatch = true) : exec (.queryFeeds part) s =
    .next (s.send .dispatch (reportOf .queryFeeds part (s.feedsPart part.toNat))) :=
  congrArg Host.Outcome.next (State.request_of_hears _ hears)

theorem exec_querySpans (hears : s.hears .dispatch = true) : exec (.querySpans part) s =
    .next (s.send .dispatch (reportOf .querySpans part (s.spansPart part.toNat))) :=
  congrArg Host.Outcome.next (State.request_of_hears _ hears)

theorem exec_queryGrants (hears : s.hears .dispatch = true) : exec (.queryGrants part) s =
    .next (s.send .dispatch (reportOf .queryGrants part (s.grantsPart part.toNat))) :=
  congrArg Host.Outcome.next (State.request_of_hears _ hears)

end Answers

/-- Settles O31: each query answers `reportOf` of its part; the parts are listed above, and their items are the ones
written out here. -/
theorem queriesReportParts : Obligations.QueriesReportParts := by
  intro s part hears n one two yes opt time refuses reports counters
  have trucks := exec_queryTrucks part hears
  have line := exec_queryLine part hears
  have feeds := exec_queryFeeds part hears
  have spans := exec_querySpans part hears
  have grants := exec_queryGrants part hears
  refine ⟨fun zero => ?_, fun other => exec_querySection_other part hears other, fun is => ?_, fun k is => ?_,
    fun k is => ?_, fun out => refuses_of_part trucks (s.trucksPart_beyond out), fun is => ?_,
    fun e first last found => ?_, fun j is => ?_, fun out => refuses_of_part line (s.linePart_beyond out),
    fun is => ?_, fun f is => ?_, fun out => refuses_of_part feeds (s.feedsPart_beyond out), fun inside => ?_,
    fun is => ?_, fun out => refuses_of_part spans (s.spansPart_beyond out), fun is => ?_,
    fun e first last found => ?_, fun is => ?_, fun out => refuses_of_part grants (s.grantsPart_beyond out)⟩
  · subst zero
    rw [exec_querySection_zero hears, State.sectionItems, State.healthyConditions_eq]
    rfl
  · refine reports_of_part trucks (congrArg s.trucksPart is) ?_ s.arbiterItems_width
    rw [State.arbiterItems, State.gateConditions_eq, itemTime_eq, itemOpt_eq]
    simp only [List.append_assoc, List.flatMap_def]
    rfl
  · refine reports_of_part trucks ((congrArg s.trucksPart is).trans (s.trucksPart_record k)) ?_
      fun _ => s.truckItems_width k
    simp only [State.truckItems, itemOpt_eq]
    rfl
  · refine reports_of_part trucks ((congrArg s.trucksPart is).trans (s.trucksPart_times k)) ?_
      fun _ => s.truckTimes_width k
    exact List.map_congr_left fun t _ => itemOpt_eq 4 _
  · exact reports_of_part line (congrArg s.linePart is) rfl fun _ => by simp
  · refine reports_of_part line (((s.linePart_entry first last).trans (by rw [found]; rfl))) ?_
      fun _ => s.entryItems_width e
    cases kind : e.kind <;>
      simp only [State.entryItems, kind, itemSpeed, itemInterval, itemTime, itemOrigin, itemOpt_eq] <;> rfl
  · refine reports_of_part line ((congrArg s.linePart is).trans (s.linePart_channel j)) ?_
      fun _ => channelItems_width _
    simp only [channelItems, itemTime, itemOpt_eq]
    rfl
  · refine reports_of_part feeds (congrArg s.feedsPart is) ?_ fun _ => by simp
    simp only [itemTime, itemOpt_eq]
    rfl
  · have made : s.feedsPart n = some (s.feedItems f) := by rw [is]; cases f <;> rfl
    refine reports_of_part feeds made ?_ fun _ => s.feedItems_width f
    simp only [State.feedItems, itemTime, itemOpt_eq]
    rfl
  · intro r ohms
    have ohms_eq (f : Net → Nat) : resistanceOr s.derived n f = ohms f := by
      unfold resistanceOr
      cases derived : s.derived <;> simp only [ohms, derived]
    refine reports_of_part spans (if_pos (Nat.le_of_lt_succ inside)) ?_ fun _ => by simp
    have record : s.spanRec n = s.spans[n] := by rw [State.spanRec, Vector.getElem?_eq_getElem inside]; rfl
    have state : s.spanState n = s.spanStates[n] := by rw [State.spanState, Vector.getElem?_eq_getElem inside]; rfl
    show [item2 (s.spanRec n).length, item1 (s.spanRec n).resistance, itemYes (s.spanRec n).written,
      item1 (s.spanState n).code, item2 (resistanceOr s.derived n _), item2 (resistanceOr s.derived n _)] = _
    rw [record, state, ohms_eq, ohms_eq]
    rfl
  · refine reports_of_part spans (congrArg s.spansPart is) ?_ fun _ => by simp [isoItems_width]
    cases s.isoSeq <;> rfl
  · refine reports_of_part grants (congrArg s.grantsPart is) ?_ fun _ => tableItems_width _
    simp only [tableItems, itemTime, itemGrant, itemOpt_eq, slotSet_eq, byte_grantResultCode]
    rfl
  · refine reports_of_part grants ((s.grantsPart_entry first last).trans (by rw [found]; rfl)) ?_
      fun _ => grantEntryItems_width e
    unfold grantEntryItems
    cases e.who <;> rfl
  · refine reports_of_part grants (congrArg s.grantsPart is) ?_ fun _ => by simp
    simp only [itemTime, itemOpt_eq]
    rfl

end Sys2Proof.Machine
